-- ==== Sys2Proof/Word.lean ====
section
/-! DEFINITION. The bit-vector widths of the Huffman Core (spec/00_scope.md R6, R8; spec/20_memory.md R65). -/

namespace Sys2Proof

/-- A 32-bit register, bus word or frequency (R6: register width, FREQ_W). -/
abbrev Word := BitVec 32

/-- One byte of the output stream. -/
abbrev Byte := BitVec 8

/-- A symbol value 0..255 (R6: SYM_W = 8). -/
abbrev Sym := BitVec 8

/-- A node id (R6: NODE_ID_W = 9; ids 0..510 name nodes, 511 never does). -/
abbrev NodeId := BitVec 9

/-- A node weight (R6: WEIGHT_W = 40). -/
abbrev Weight := BitVec 40

/-- The right-aligned bits of a code (R6: MAX_CODE_LEN = 255; R36). -/
abbrev CodeBits := BitVec 255

end Sys2Proof
end

