-- ==== Sys2Proof/Syntax.lean ====
section
/-! DEFINITION. The thirteen commands of the Huffman Core (spec/30_encoding.md R78), one constructor per row of the opcode
table. -/

namespace Sys2Proof

/-- A command (R78). Operands stand as the fields of R72 give them: SYM, WRD, NODE, FLD. SETFREQ's 32-bit value is no
operand of the word: it is PEND_ARG (R77). -/
inductive Instr where
  /-- R99. -/
  | nop
  /-- R100. -/
  | clear
  /-- R111. -/
  | count (sym : Sym)
  /-- R112. -/
  | setfreq (sym : Sym)
  /-- R113. -/
  | readfreq (sym : Sym)
  /-- R125. -/
  | build
  /-- R140. -/
  | gencodes
  /-- R144. -/
  | readlen (sym : Sym)
  /-- R145. -/
  | readcode (sym : Sym) (wrd : BitVec 3)
  /-- R131. FLD is WLO = 0, WHI = 1 or LINK = 2 (R83); 3 is illegal (R76). -/
  | readnode (node : NodeId) (fld : BitVec 2)
  /-- R155. -/
  | encode (sym : Sym)
  /-- R156. -/
  | flush
  /-- R101. -/
  | abort
deriving DecidableEq, Repr

end Sys2Proof
end

