-- ==== Sys2Proof/WellFormed.lean ====
section
/-! DEFINITION. Which terms of Instr are commands of the block (spec/30_encoding.md R72, R76, R81): every operand value is
legal except FLD = 3. -/

namespace Sys2Proof

/-- R76: "FLD = w[10:9], which must not be 3". R81: every SYM, WRD and NODE value is legal. -/
def Instr.wellFormed : Instr → Bool
  | .nop => true
  | .clear => true
  | .count _ => true
  | .setfreq _ => true
  | .readfreq _ => true
  | .build => true
  | .gencodes => true
  | .readlen _ => true
  | .readcode _ _ => true
  | .readnode _ fld => fld != 3#2
  | .encode _ => true
  | .flush => true
  | .abort => true

end Sys2Proof
end

