-- ==== Sys2Proof/Decode.lean ====
section
/-! DEFINITION. Decoding a command word, total on every 32-bit word and rejecting by name (spec/30_encoding.md R79, R80),
and the encoder written from the formats and the opcode map (R73 to R78, R83). -/

namespace Sys2Proof

/-- Why a word is illegal: the three cases of R80. -/
inductive Illegal where
  /-- The opcode is 0x0D..0xFF. -/
  | unassignedOpcode
  /-- A bit the opcode's format marks Z is 1. -/
  | reservedBitSet
  /-- The opcode is READNODE and FLD = 3. -/
  | fieldThree
deriving DecidableEq, Repr

/-- The opcode field OPC = w[31:24] (R71). -/
def opcField (w : Word) : BitVec 8 := w.extractLsb' 24 8

/-- SYM = w[7:0] (R74, R75). -/
def symField (w : Word) : Sym := w.extractLsb' 0 8

/-- WRD = w[10:8] (R75). -/
def wrdField (w : Word) : BitVec 3 := w.extractLsb' 8 3

/-- NODE = w[8:0] (R76). -/
def nodeField (w : Word) : NodeId := w.extractLsb' 0 9

/-- FLD = w[10:9] (R76). -/
def fldField (w : Word) : BitVec 2 := w.extractLsb' 9 2

/-- Format N (R73): w[23:0] must be 0. -/
def decodeN (w : Word) (i : Instr) : Except Illegal Instr :=
  if w.extractLsb' 0 24 = 0#24 then .ok i else .error .reservedBitSet

/-- Format S (R74): w[23:8] must be 0. -/
def decodeS (w : Word) (f : Sym → Instr) : Except Illegal Instr :=
  if w.extractLsb' 8 16 = 0#16 then .ok (f (symField w)) else .error .reservedBitSet

/-- Format SW (R75): w[23:11] must be 0. -/
def decodeSW (w : Word) : Except Illegal Instr :=
  if w.extractLsb' 11 13 = 0#13 then .ok (.readcode (symField w) (wrdField w)) else .error .reservedBitSet

/-- Format ND (R76): w[23:11] must be 0 and FLD must not be 3. -/
def decodeND (w : Word) : Except Illegal Instr :=
  if w.extractLsb' 11 13 = 0#13 then
    if fldField w = 3#2 then .error .fieldThree else .ok (.readnode (nodeField w) (fldField w))
  else .error .reservedBitSet

/-- R79: the decode function on every 32-bit word. -/
def decode (w : Word) : Except Illegal Instr :=
  match (opcField w).toNat with
  | 0x00 => decodeN w .nop
  | 0x01 => decodeN w .clear
  | 0x02 => decodeS w .count
  | 0x03 => decodeS w .setfreq
  | 0x04 => decodeS w .readfreq
  | 0x05 => decodeN w .build
  | 0x06 => decodeN w .gencodes
  | 0x07 => decodeS w .readlen
  | 0x08 => decodeSW w
  | 0x09 => decodeND w
  | 0x0A => decodeS w .encode
  | 0x0B => decodeN w .flush
  | 0x0C => decodeN w .abort
  | _ => .error .unassignedOpcode

/-- The word of format N (R73, R83: OPC << 24). -/
def encodeN (opc : BitVec 8) : Word := opc ++ 0#24

/-- The word of format S (R74, R83: (OPC << 24) OR sym). -/
def encodeS (opc : BitVec 8) (sym : Sym) : Word := opc ++ 0#16 ++ sym

/-- The word of a command, from the opcode map and the formats (R78, R83). -/
def encode : Instr → Word
  | .nop => encodeN 0x00#8
  | .clear => encodeN 0x01#8
  | .count sym => encodeS 0x02#8 sym
  | .setfreq sym => encodeS 0x03#8 sym
  | .readfreq sym => encodeS 0x04#8 sym
  | .build => encodeN 0x05#8
  | .gencodes => encodeN 0x06#8
  | .readlen sym => encodeS 0x07#8 sym
  | .readcode sym wrd => 0x08#8 ++ 0#13 ++ wrd ++ sym
  | .readnode node fld => 0x09#8 ++ 0#13 ++ fld ++ node
  | .encode sym => encodeS 0x0A#8 sym
  | .flush => encodeN 0x0B#8
  | .abort => encodeN 0x0C#8

/-- The instruction the decoder reads from an opcode-table row's bits. Every command is one 32-bit word (R70), so bits above
nbits are 0 and a value that does not fit 32 bits is no command. -/
def decodeTableWord (nbits w : Nat) : Option Instr :=
  let v := w % 2 ^ nbits
  if v < 2 ^ 32 then
    match decode (BitVec.ofNat 32 v) with
    | .ok i => some i
    | .error _ => none
  else none

end Sys2Proof
end

