-- ==== Sys2Proof/Config.lean ====
section
/-! DEFINITION. The parameters of the Huffman Core (spec/00_scope.md R6) and its free values: constants without a body,
which nothing can evaluate, so that whatever is proved of them holds for every value (spec/93_implementation_defined.md). -/

namespace Sys2Proof.Config

/-- The capacity of the output FIFO in bytes (R6: OUTQ_DEPTH). -/
def outqDepth : Nat := 64

/-- The constant the ID register reads (R24). -/
def idValue : Word := 0x48554631#32

/-- HCC_BASE, the base address of the register window: OPEN, a parameter of the platform (R6, R57; U14; log 11). -/
opaque hccBase : Nat

/-- Free value: the 32-bit data word on the bus at the n-th draw when a host write is narrower than 32 bits
(R52: "unspecified ... a draw"; U11; log 5). -/
opaque freeBusWord : Nat → Word

/-- Free value: PEND_CMD after the run initialisation of the n-th draw (R44: "unspecified"; U8; log 6). -/
opaque freePendCmd : Nat → Word

/-- Free value: PEND_ARG after the run initialisation of the n-th draw (R44: "unspecified"; U8; log 6). -/
opaque freePendArg : Nat → Word

/-- Free value: NODE_W after the run initialisation of the n-th draw (R44, R100: "unspecified"; U9; log 7). -/
opaque freeWeights : Nat → Vector Weight 511

/-- Free value: NODE_L after the run initialisation of the n-th draw (R44, R100; U9; log 7). -/
opaque freeLefts : Nat → Vector NodeId 255

/-- Free value: NODE_R after the run initialisation of the n-th draw (R44, R100; U9; log 7). -/
opaque freeRights : Nat → Vector NodeId 255

/-- Free value: the slots of HEAP between commands (R38: "unspecified and never observable"; U10; log 8). -/
opaque freeHeap : Nat → Vector NodeId 256

/-- Free value: HEAP_N between commands (R38; U10; log 8). -/
opaque freeHeapN : Nat → BitVec 9

end Sys2Proof.Config
end

