-- ==== Sys2Proof/Machine/State.lean ====
section
/-! DEFINITION. The state of the Huffman Core (spec/10_state.md R20 to R44), the events that reach it (spec/40_control.md
R90), why a step can stop, and the state after reset (R44). -/

namespace Sys2Proof.Machine

/-- PHASE, the run's position (R27). The values 4..7 never occur (R25, U20). -/
inductive Phase where
  /-- 0: the FrequencyTable is being built; no tree exists. -/
  | load
  /-- 1: the tree exists; no codes exist. -/
  | tree
  /-- 2: the CodeTable exists; symbols may be encoded. -/
  | codes
  /-- 3: the EncodedStream is complete. -/
  | done
deriving DecidableEq, Repr

/-- The error codes of R175. Codes 9..15 never occur. -/
inductive ErrCode where
  /-- 0 NONE: no error in this run. -/
  | noError
  /-- 1 EMPTY_INPUT. -/
  | emptyInput
  /-- 2 INVALID_TREE. -/
  | invalidTree
  /-- 3 UNKNOWN_SYMBOL. -/
  | unknownSymbol
  /-- 4 IO_FAILURE. -/
  | ioFailure
  /-- 5 BAD_PHASE. -/
  | badPhase
  /-- 6 ILLEGAL_CMD. -/
  | illegalCmd
  /-- 7 CMD_OVERRUN. -/
  | cmdOverrun
  /-- 8 FREQ_OVERFLOW. -/
  | freqOverflow
deriving DecidableEq, Repr

/-- The width of a host access (R52). -/
inductive Size where
  | byte
  | half
  | word
deriving DecidableEq, Repr

/-- One event of the total order (R59, R90): a host access, a step of the block, or a reset. -/
inductive Event where
  /-- A host read of the register that holds the address (R51, R52). -/
  | read (addr : Nat) (size : Size)
  /-- A host write of the register that holds the address (R51, R52); data is the bus word of a 32-bit write. -/
  | write (addr : Nat) (size : Size) (data : Word)
  /-- The block's turn: it completes the pending command if it can (R93, R98). -/
  | block
  /-- The reset event (R200). -/
  | reset
deriving DecidableEq, Repr

/-- The node arena (R33): NODE_W of the ids 0..510, and NODE_L and NODE_R of the internal ids 256..510, the entry of id n
at position n - 256. -/
structure Arena where
  weight : Vector Weight 511
  left   : Vector NodeId 255
  right  : Vector NodeId 255
deriving DecidableEq, Repr

/-- The code table (R36): CODE_LEN and CODE_VAL, indexed by symbol. -/
structure CodeTable where
  len : Vector (BitVec 8) 256
  val : Vector CodeBits 256
deriving DecidableEq, Repr

/-- The state of the machine. The last four fields are the model's own (log 1, 4, 10); the others are the spec's. -/
structure State where
  /-- BUSY: a command is latched and not yet complete (R26). -/
  busy     : Bool
  /-- ERR: the run's sticky error flag (R28). -/
  err      : Bool
  /-- ERRCODE: the code of the first error of the run (R30). -/
  errcode  : ErrCode
  /-- PHASE (R27). -/
  phase    : Phase
  /-- ACC, the bit accumulator, right-aligned (R39). -/
  acc      : BitVec 8
  /-- ACC_CNT, how many bits ACC holds, 0..7 (R29). -/
  accCnt   : BitVec 3
  /-- ARG, the operand register (R31). -/
  arg      : Word
  /-- RESULT, the answer of the last read command (R32). -/
  result   : Word
  /-- PEND_CMD, the latched command word (R42). -/
  pendCmd  : Word
  /-- PEND_ARG, ARG as it stood at issue (R42). -/
  pendArg  : Word
  /-- FREQ[0..255], the FrequencyTable (R34). -/
  freq     : Vector Word 256
  /-- NODE_W, NODE_L and NODE_R (R33). -/
  arena    : Arena
  /-- ROOT (R35). -/
  root     : NodeId
  /-- NLEAVES (R35). -/
  nLeaves  : BitVec 9
  /-- CODE_LEN and CODE_VAL (R36). -/
  codes    : CodeTable
  /-- HEAP[0..255] (R38). -/
  heap     : Vector NodeId 256
  /-- HEAP_N (R38). -/
  heapN    : BitVec 9
  /-- OUTQ, the output FIFO, head first (R40). -/
  outq     : List Byte
  /-- BITCNT (R41). -/
  bitcnt   : BitVec 64
  /-- The model's own: the events still to come, the next one first (R59; log 1). -/
  schedule : List Event
  /-- The model's own: the answer of the last host read (R52; log 4). -/
  rdata    : Word
  /-- The model's own: the bytes the host read with VALID = 1 since the run began, the oldest first (R215; log 4). -/
  hostOut  : List Byte
  /-- The model's own: how many free values have been drawn (log 10). -/
  draws    : Nat
deriving DecidableEq, Repr

/-- Why the machine stops with a fault: never. "No access faults" (R58), and an error of R175 is recorded in ERR and
ERRCODE while the block goes on, so it is a next state. -/
inductive Fault where
deriving DecidableEq, Repr

/-- Why a step is refused. -/
inductive Refusal where
  /-- Raised by an arm of exec whose instruction has no meaning yet; safe. No arm of this model raises it. -/
  | notModelled (mnemonic : String)
  /-- Raised by a host event whose address lies outside the window: "Addresses outside the window are not the block's"
  (R51); U15 gives the situation no step; safe (log 12). -/
  | outsideWindow
deriving DecidableEq, Repr

/-- An empty code table (R44: CODE_LEN and CODE_VAL all 0). -/
def CodeTable.empty : CodeTable :=
  { len := Vector.replicate 256 0#8, val := Vector.replicate 256 0#255 }

/-- The machine right after reset (R44, R201). PEND_CMD, PEND_ARG, the arena, HEAP and HEAP_N have no reset value in the
spec ("unspecified"); the zeros here are the model's (log 6, 7, 8). -/
def State.reset : State where
  busy     := false
  err      := false
  errcode  := .noError
  phase    := .load
  acc      := 0#8
  accCnt   := 0#3
  arg      := 0#32
  result   := 0#32
  pendCmd  := 0#32
  pendArg  := 0#32
  freq     := Vector.replicate 256 0#32
  arena    :=
    { weight := Vector.replicate 511 0#40, left := Vector.replicate 255 0#9, right := Vector.replicate 255 0#9 }
  root     := 0#9
  nLeaves  := 0#9
  codes    := .empty
  heap     := Vector.replicate 256 0#9
  heapN    := 0#9
  outq     := []
  bitcnt   := 0#64
  schedule := []
  rdata    := 0#32
  hostOut  := []
  draws    := 0

end Sys2Proof.Machine
end

