-- ==== Sys2Proof/Machine/Operands.lean ====
section
/-! DEFINITION. How commands reach the internal arrays and slice their elements (spec/30_encoding.md R77;
spec/10_state.md R33 to R37; spec/20_memory.md R65; spec/42_tree.md R131; spec/43_codes.md R145). -/

namespace Sys2Proof.Machine

/-- FREQ[sym] of a frequency table (R34). -/
def freqOf (f : Vector Word 256) (sym : Sym) : Word := f[sym.toNat]'(sym.isLt)

/-- FREQ[sym] <- v (R34, R65: a whole element). -/
def State.setFreq (s : State) (sym : Sym) (v : Word) : State :=
  { s with freq := s.freq.set sym.toNat v sym.isLt }

/-- Symbol s is present iff FREQ[s] is not 0 (R34). -/
def present (f : Vector Word 256) (sym : Sym) : Bool := freqOf f sym != 0#32

/-- The present symbols in ascending order (R120, R125). -/
def presentSyms (f : Vector Word 256) : List Sym :=
  ((List.range 256).map (BitVec.ofNat 8)).filter (present f)

/-- The leaf id of a symbol (R33: "Leaf s is the LeafNode of symbol s"). -/
def leafId (sym : Sym) : NodeId := sym.setWidth 9

/-- The symbol of a leaf id (R33). -/
def leafSym (n : NodeId) : Sym := n.setWidth 8

/-- Ids 0..255 are leaf ids (R33). -/
def isLeafId (n : NodeId) : Bool := decide (n.toNat ≤ 255)

/-- NODE_W[n]. Id 511 names no node (R33) and is never read; the 0 there is only what makes the function total (log 13). -/
def Arena.weightOf (A : Arena) (n : NodeId) : Weight := A.weight[n.toNat]?.getD 0#40

/-- NODE_L[n] of an internal id; the 0 for another id is only what makes the function total (log 13). -/
def Arena.leftOf (A : Arena) (n : NodeId) : NodeId := A.left[n.toNat - 256]?.getD 0#9

/-- NODE_R[n] of an internal id; the 0 for another id is only what makes the function total (log 13). -/
def Arena.rightOf (A : Arena) (n : NodeId) : NodeId := A.right[n.toNat - 256]?.getD 0#9

/-- NODE_W[n] <- w (R125). -/
def Arena.setWeight (A : Arena) (n : NodeId) (w : Weight) : Arena :=
  { A with weight := A.weight.setIfInBounds n.toNat w }

/-- NODE_L[n] <- l and NODE_R[n] <- r (R125). -/
def Arena.setChildren (A : Arena) (n l r : NodeId) : Arena :=
  { A with left := A.left.setIfInBounds (n.toNat - 256) l, right := A.right.setIfInBounds (n.toNat - 256) r }

/-- CODE_LEN[sym] (R36). -/
def CodeTable.lenOf (T : CodeTable) (sym : Sym) : BitVec 8 := T.len[sym.toNat]'(sym.isLt)

/-- CODE_VAL[sym] (R36). -/
def CodeTable.valOf (T : CodeTable) (sym : Sym) : CodeBits := T.val[sym.toNat]'(sym.isLt)

/-- CODE_LEN[sym] <- l and CODE_VAL[sym] <- v (R140). -/
def CodeTable.set (T : CodeTable) (sym : Sym) (l : BitVec 8) (v : CodeBits) : CodeTable :=
  { len := T.len.set sym.toNat l sym.isLt, val := T.val.set sym.toNat v sym.isLt }

/-- R37: which node ids are valid. -/
def State.validNode (s : State) (n : NodeId) : Bool :=
  s.phase != .load &&
    (if isLeafId n then present s.freq (leafSym n) else decide (n.toNat ≤ 254 + s.nLeaves.toNat))

/-- R131: the word a READNODE of FLD = WLO (0), WHI (1) or LINK (2) answers; FLD = 3 is no field (R76). -/
def State.nodeWord (s : State) (n : NodeId) (fld : BitVec 2) : Option Word :=
  match fld.toNat with
  | 0 => some (if s.validNode n then (s.arena.weightOf n).extractLsb' 0 32 else 0#32)
  | 1 => some (if s.validNode n then ((s.arena.weightOf n).extractLsb' 32 8).setWidth 32 else 0#32)
  | 2 =>
    some (if s.validNode n then
      (if isLeafId n then 0x80000000#32
       else 1#1 ++ 1#1 ++ 0#5 ++ s.arena.leftOf n ++ 0#7 ++ s.arena.rightOf n)
      else 0#32)
  | _ => none

/-- R145: the 32-bit word wrd of a code value zero-extended to 256 bits. -/
def codeWord (v : CodeBits) (wrd : BitVec 3) : Word := (v.setWidth 256).extractLsb' (32 * wrd.toNat) 32

end Sys2Proof.Machine
end

