-- ==== Sys2Proof/Machine/Flags.lean ====
section
/-! DEFINITION. The status side of the block: the STATUS, ERRCODE and TREEINFO words (spec/10_state.md R25, R30, R35), the
phase table (spec/40_control.md R97), the error gate's exception (R96) and the output hold (R98). -/

namespace Sys2Proof.Machine

/-- The value of PHASE (R27). -/
def Phase.bits : Phase → BitVec 3
  | .load => 0#3
  | .tree => 1#3
  | .codes => 2#3
  | .done => 3#3

/-- The number of an error code (R175). -/
def ErrCode.bits : ErrCode → BitVec 4
  | .noError => 0#4
  | .emptyInput => 1#4
  | .invalidTree => 2#4
  | .unknownSymbol => 3#4
  | .ioFailure => 4#4
  | .badPhase => 5#4
  | .illegalCmd => 6#4
  | .cmdOverrun => 7#4
  | .freqOverflow => 8#4

/-- R25: STATUS = {21'b0, ACC_CNT[2:0], 3'b0, PHASE[2:0], ERR, BUSY}. -/
def State.statusWord (s : State) : Word :=
  0#21 ++ s.accCnt ++ 0#3 ++ s.phase.bits ++ BitVec.ofBool s.err ++ BitVec.ofBool s.busy

/-- R30: ERRCODE = {28'b0, CODE[3:0]}. -/
def State.errcodeWord (s : State) : Word := 0#28 ++ s.errcode.bits

/-- R35: TREEINFO = {7'b0, NLEAVES[8:0], 7'b0, ROOT[8:0]}. -/
def State.treeinfoWord (s : State) : Word := 0#7 ++ s.nLeaves ++ 0#7 ++ s.root

/-- R97, the phase table: the error a command records in a phase, none where it may run. -/
def phaseError : Instr → Phase → Option ErrCode
  | .nop, _ => none
  | .clear, _ => none
  | .abort, _ => none
  | .readfreq _, _ => none
  | .count _, .load => none
  | .count _, _ => some .badPhase
  | .setfreq _, .load => none
  | .setfreq _, _ => some .badPhase
  | .build, .load => none
  | .build, _ => some .badPhase
  | .gencodes, .load => some .invalidTree
  | .gencodes, .tree => none
  | .gencodes, _ => some .badPhase
  | .readnode _ _, .load => some .badPhase
  | .readnode _ _, _ => none
  | .readlen _, .codes => none
  | .readlen _, .done => none
  | .readlen _, _ => some .badPhase
  | .readcode _ _, .codes => none
  | .readcode _ _, .done => none
  | .readcode _ _, _ => some .badPhase
  | .encode _, .codes => none
  | .encode _, _ => some .badPhase
  | .flush, .codes => none
  | .flush, _ => some .badPhase

/-- R96: CLEAR is the only command performed while ERR = 1. -/
def performedUnderError : Instr → Bool
  | .clear => true
  | .nop => false
  | .count _ => false
  | .setfreq _ => false
  | .readfreq _ => false
  | .build => false
  | .gencodes => false
  | .readlen _ => false
  | .readcode _ _ => false
  | .readnode _ _ => false
  | .encode _ => false
  | .flush => false
  | .abort => false

/-- R98: how many bytes of OUTQ a command needs, none for a command that pushes nothing. -/
def State.need (s : State) : Instr → Option Nat
  | .encode sym => some ((s.accCnt.toNat + (s.codes.lenOf sym).toNat) / 8)
  | .flush => some (if s.accCnt.toNat > 0 then 1 else 0)
  | .nop => none
  | .clear => none
  | .count _ => none
  | .setfreq _ => none
  | .readfreq _ => none
  | .build => none
  | .gencodes => none
  | .readlen _ => none
  | .readcode _ _ => none
  | .readnode _ _ => none
  | .abort => none

/-- R98, the output hold: ERR = 0, PHASE = CODES, an ENCODE or FLUSH, and need > 64 - |OUTQ| (written without the
subtraction, log 18). -/
def State.held (s : State) (i : Instr) : Bool :=
  !s.err && s.phase == .codes &&
    (match s.need i with
     | some k => decide (Config.outqDepth < k + s.outq.length)
     | none => false)

end Sys2Proof.Machine
end

