-- ==== Sys2Proof/Machine/Ops.lean ====
section
/-! DEFINITION. The operations the commands share: recording an error (spec/60_exceptions.md R176), completing a command
and the shared part of the block's step (spec/40_control.md R102), the run initialisation of CLEAR and reset
(spec/10_state.md R44), and the output FIFO (R40). -/

namespace Sys2Proof.Machine

/-- BUSY <- 0, at the same event as a command's writes (R93, R102). -/
def State.finish (s : State) : State := { s with busy := false }

/-- raise Error(code): ERR <- 1, ERRCODE <- code, the rest of the command skipped, BUSY <- 0 (R176, R102). -/
def State.raise (s : State) (code : ErrCode) : State := { s with err := true, errcode := code, busy := false }

/-- The reset values of R44, which CLEAR (R100) and the reset event (R200) both set; what R44 calls unspecified becomes a
free value (log 6, 7, 8), and the host's record of the run's bytes starts again (log 22). The host's coming events and the
last bus answer are not the block's and stay. -/
def State.initRun (s : State) : State :=
  { s with
    busy := false, err := false, errcode := .noError, phase := .load, acc := 0#8, accCnt := 0#3
    arg := 0#32, result := 0#32
    pendCmd := Config.freePendCmd s.draws, pendArg := Config.freePendArg s.draws
    freq := Vector.replicate 256 0#32
    arena :=
      { weight := Config.freeWeights s.draws, left := Config.freeLefts s.draws, right := Config.freeRights s.draws }
    root := 0#9, nLeaves := 0#9, codes := .empty
    heap := Config.freeHeap s.draws, heapN := Config.freeHeapN s.draws
    outq := [], bitcnt := 0#64, hostOut := [], draws := s.draws + 1 }

/-- OUTQ.push of several bytes, the first one first (R11, R66). -/
def State.pushAll (s : State) (bs : List Byte) : State := { s with outq := s.outq ++ bs }

/-- OUTQ.pop by a host read of OUTDATA, which the host records (R157, R84, R215); nothing when OUTQ is empty. -/
def State.pop (s : State) : State :=
  match s.outq with
  | [] => s
  | b :: q => { s with outq := q, hostOut := s.hostOut ++ [b] }

/-- The block's step for a decoded command (R102) with the hold of R98 before it: held, ignored under ERR = 1 (R96), out
of phase (R97), or performed; perform answers the error it records or the state with its writes done, so that a command
that records an error has written nothing (R94). -/
def runCommand (i : Instr) (perform : State → Except ErrCode State) (s : State) : State :=
  if s.held i then s
  else if s.err && !performedUnderError i then s.finish
  else
    match phaseError i s.phase with
    | some code => s.raise code
    | none =>
      match perform s with
      | .error code => s.raise code
      | .ok t => t.finish

/-- The block's step for an illegal word: ILLEGAL_CMD when ERR = 0, ignored when ERR = 1 (R80, R96, R102). -/
def runIllegal (s : State) : State := if s.err then s.finish else s.raise .illegalCmd

end Sys2Proof.Machine
end

