-- ==== Sys2Proof/Machine/Bus.lean ====
section
/-! DEFINITION. The host's side: the register window (spec/10_state.md R22 to R42), what a read and a write of each
register does (spec/20_memory.md R50 to R55; spec/40_control.md R91, R92; spec/44_packer.md R157, R158), and the reset
event (spec/70_reset_and_hazards.md R200). -/

namespace Sys2Proof.Machine

/-- R51: the address lies in HCC_BASE .. HCC_BASE + 0x3F. -/
def inWindow (addr : Nat) : Bool := decide (Config.hccBase ≤ addr) && decide (addr ≤ Config.hccBase + 0x3F)

/-- R51: the register index off[5:2] of off = addr - HCC_BASE; off[1:0] is ignored (R54). -/
def regIndex (addr : Nat) : BitVec 4 := BitVec.ofNat 4 ((addr - Config.hccBase) / 4)

/-- R157: what OUTDATA reads, {23'b0, VALID, BYTE}. -/
def State.outdataWord (s : State) : Word :=
  match s.outq with
  | [] => 0#32
  | b :: _ => 0#23 ++ 1#1 ++ b

/-- R158: what OUTLEVEL reads. -/
def State.outlevelWord (s : State) : Word := 0#25 ++ BitVec.ofNat 7 s.outq.length

/-- The sixteen registers of R22 by index (offset / 4): what a read returns. CMD (WO) and the reserved offsets read 0. -/
def State.readReg (s : State) (idx : BitVec 4) : Word :=
  match idx.toNat with
  | 0x0 => Config.idValue
  | 0x1 => s.statusWord
  | 0x2 => s.errcodeWord
  | 0x3 => 0#32
  | 0x4 => s.arg
  | 0x5 => s.result
  | 0x6 => s.outdataWord
  | 0x7 => s.outlevelWord
  | 0x8 => s.treeinfoWord
  | 0x9 => s.bitcnt.extractLsb' 0 32
  | 0xA => s.bitcnt.extractLsb' 32 32
  | _ => 0#32

/-- A host read of register idx: the value goes to the host, and OUTDATA pops (R55, R157). -/
def State.mmioRead (s : State) (idx : BitVec 4) : State :=
  if idx = 6#4 then { s.pop with rdata := s.readReg idx } else { s with rdata := s.readReg idx }

/-- R91: a CMD write while BUSY = 0 issues a command. -/
def State.issue (s : State) (w : Word) : State := { s with pendCmd := w, pendArg := s.arg, busy := true }

/-- R92: a CMD write while BUSY = 1 is an overrun; the first error code stays. -/
def State.overrun (s : State) : State :=
  if s.err then { s with busy := false } else { s with busy := false, err := true, errcode := .cmdOverrun }

/-- A host write of w to register idx: CMD issues or overruns, ARG stores, every other write is ignored (R22, R23, R55). -/
def State.mmioWrite (s : State) (idx : BitVec 4) (w : Word) : State :=
  match idx.toNat with
  | 0x3 => if s.busy then s.overrun else s.issue w
  | 0x4 => { s with arg := w }
  | _ => s

/-- The host read at an address (R51). A narrower read returns the whole register (R52), so the size plays no part. -/
def hostRead (addr : Nat) (_size : Size) (s : State) : Host.Outcome State Fault Refusal :=
  if inWindow addr then .next (s.mmioRead (regIndex addr)) else .refused .outsideWindow

/-- The host write at an address (R51). A narrower write delivers a drawn 32-bit word (R52; log 5). -/
def hostWrite (addr : Nat) (size : Size) (data : Word) (s : State) : Host.Outcome State Fault Refusal :=
  if inWindow addr then
    match size with
    | .word => .next (s.mmioWrite (regIndex addr) data)
    | .half => .next ({ s with draws := s.draws + 1 }.mmioWrite (regIndex addr) (Config.freeBusWord s.draws))
    | .byte => .next ({ s with draws := s.draws + 1 }.mmioWrite (regIndex addr) (Config.freeBusWord s.draws))
  else .refused .outsideWindow

/-- R200: the reset event sets every piece of state to its reset value; the pending command is dropped. -/
def resetEvent (s : State) : State := s.initRun

end Sys2Proof.Machine
end

