-- ==== Sys2Proof/Machine/Codes.lean ====
section
/-! DEFINITION. The code table generator GENCODES (spec/43_codes.md R140, R141) and the code readback READLEN and READCODE
(R144, R145). -/

namespace Sys2Proof.Machine

/-- R140: assign(n, v, d), the left subtree first (R142). The first argument bounds the depth of the recursion: a tree of
256 leaves has depth at most 255 (R6; log 17). -/
def assign (A : Arena) : Nat → NodeId → Nat → Nat → CodeTable → CodeTable
  | 0, _, _, _, T => T
  | fuel + 1, n, v, d, T =>
    if isLeafId n then T.set (leafSym n) (BitVec.ofNat 8 d) (BitVec.ofNat 255 v)
    else
      assign A fuel (A.rightOf n) (2 * v + 1) (d + 1) (assign A fuel (A.leftOf n) (2 * v) (d + 1) T)

/-- R140, R141: the code table of a tree; a tree of one leaf gets the code "0". -/
def genTable (A : Arena) (root : NodeId) : CodeTable :=
  if isLeafId root then CodeTable.empty.set (leafSym root) 1#8 0#255 else assign A 256 root 0 0 .empty

/-- R140. -/
def performGencodes (s : State) : Except ErrCode State :=
  .ok { s with codes := genTable s.arena s.root, phase := .codes }

/-- R140: GENCODES. -/
def execGencodes (s : State) : Host.Outcome State Fault Refusal := .next (runCommand .gencodes performGencodes s)

/-- R144: RESULT <- zext_32(CODE_LEN[sym]). -/
def performReadlen (sym : Sym) (s : State) : Except ErrCode State :=
  .ok { s with result := (s.codes.lenOf sym).setWidth 32 }

/-- R144: READLEN sym. -/
def execReadlen (sym : Sym) (s : State) : Host.Outcome State Fault Refusal :=
  .next (runCommand (.readlen sym) (performReadlen sym) s)

/-- R145: RESULT <- v256[32*wrd + 31 : 32*wrd]. -/
def performReadcode (sym : Sym) (wrd : BitVec 3) (s : State) : Except ErrCode State :=
  .ok { s with result := codeWord (s.codes.valOf sym) wrd }

/-- R145: READCODE sym, wrd. -/
def execReadcode (sym : Sym) (wrd : BitVec 3) (s : State) : Host.Outcome State Fault Refusal :=
  .next (runCommand (.readcode sym wrd) (performReadcode sym wrd) s)

end Sys2Proof.Machine
end

