-- ==== Sys2Proof/Machine/Control.lean ====
section
/-! DEFINITION. The control commands NOP, CLEAR and ABORT (spec/40_control.md R99 to R101). -/

namespace Sys2Proof.Machine

/-- R99. -/
def performNop (s : State) : Except ErrCode State := .ok s

/-- R99: NOP. -/
def execNop (s : State) : Host.Outcome State Fault Refusal := .next (runCommand .nop performNop s)

/-- R100, with the reset values of R44. -/
def performClear (s : State) : Except ErrCode State := .ok s.initRun

/-- R100: CLEAR, the one command performed while ERR = 1. -/
def execClear (s : State) : Host.Outcome State Fault Refusal := .next (runCommand .clear performClear s)

/-- R101: raise Error(IO_FAILURE). -/
def performAbort (_s : State) : Except ErrCode State := .error .ioFailure

/-- R101: ABORT. -/
def execAbort (s : State) : Host.Outcome State Fault Refusal := .next (runCommand .abort performAbort s)

end Sys2Proof.Machine
end

