-- ==== Sys2Proof/Machine/Frequency.lean ====
section
/-! DEFINITION. The frequency table commands COUNT, SETFREQ and READFREQ (spec/41_frequency.md R110 to R113). -/

namespace Sys2Proof.Machine

/-- R111: FREQ_OVERFLOW at 0xFFFF_FFFF, else FREQ[sym] <- FREQ[sym] + 1. -/
def performCount (sym : Sym) (s : State) : Except ErrCode State :=
  if freqOf s.freq sym = 0xFFFFFFFF#32 then .error .freqOverflow
  else .ok (s.setFreq sym (freqOf s.freq sym + 1#32))

/-- R111: COUNT sym. -/
def execCount (sym : Sym) (s : State) : Host.Outcome State Fault Refusal :=
  .next (runCommand (.count sym) (performCount sym) s)

/-- R112: FREQ[sym] <- PEND_ARG, all 32 bits. -/
def performSetfreq (sym : Sym) (s : State) : Except ErrCode State := .ok (s.setFreq sym s.pendArg)

/-- R112: SETFREQ sym. -/
def execSetfreq (sym : Sym) (s : State) : Host.Outcome State Fault Refusal :=
  .next (runCommand (.setfreq sym) (performSetfreq sym) s)

/-- R113: RESULT <- FREQ[sym]. -/
def performReadfreq (sym : Sym) (s : State) : Except ErrCode State := .ok { s with result := freqOf s.freq sym }

/-- R113: READFREQ sym. -/
def execReadfreq (sym : Sym) (s : State) : Host.Outcome State Fault Refusal :=
  .next (runCommand (.readfreq sym) (performReadfreq sym) s)

end Sys2Proof.Machine
end

