-- ==== Sys2Proof/Machine/Packer.lean ====
section
/-! DEFINITION. The bit packer: ENCODE (spec/44_packer.md R155) and FLUSH (R156). -/

namespace Sys2Proof.Machine

/-- R155: the value `bits` of ACC_CNT + L bits, (ACC << L) OR CODE_VAL[L-1:0]. -/
def packBits (acc : BitVec 8) (len : Nat) (val : CodeBits) : Nat := (acc.toNat <<< len) ||| (val.toNat % 2 ^ len)

/-- R155: the whole bytes of a total-bit value, the k-th being bits[total-1-8k : total-8-8k]. -/
def wholeBytes (bits total : Nat) : List Byte :=
  (List.range (total / 8)).map fun k => BitVec.ofNat 8 (bits >>> (total - 8 - 8 * k))

/-- R155: UNKNOWN_SYMBOL where there is no code, else the code's bits appended, whole bytes pushed, the rest kept in ACC. -/
def performEncode (sym : Sym) (s : State) : Except ErrCode State :=
  let len := (s.codes.lenOf sym).toNat
  if len = 0 then .error .unknownSymbol
  else
    let total := s.accCnt.toNat + len
    let bits := packBits s.acc len (s.codes.valOf sym)
    let rem := total - 8 * (total / 8)
    .ok { s.pushAll (wholeBytes bits total) with
      acc := BitVec.ofNat 8 (bits % 2 ^ rem), accCnt := BitVec.ofNat 3 rem
      bitcnt := s.bitcnt + BitVec.ofNat 64 len }

/-- R155: ENCODE sym. -/
def execEncode (sym : Sym) (s : State) : Host.Outcome State Fault Refusal :=
  .next (runCommand (.encode sym) (performEncode sym) s)

/-- R156: the last byte, the pending bits high and zero padding low; none when nothing is pending. -/
def lastByte (acc : BitVec 8) (cnt : Nat) : List Byte := if cnt > 0 then [acc <<< (8 - cnt)] else []

/-- R156. -/
def performFlush (s : State) : Except ErrCode State :=
  .ok { s.pushAll (lastByte s.acc s.accCnt.toNat) with acc := 0#8, accCnt := 0#3, phase := .done }

/-- R156: FLUSH. -/
def execFlush (s : State) : Host.Outcome State Fault Refusal := .next (runCommand .flush performFlush s)

end Sys2Proof.Machine
end

