-- ==== Sys2Proof/Machine/Heap.lean ====
section
/-! DEFINITION. The priority structure of BUILD: the order of node ids (spec/42_tree.md R121) and the reference binary
min-heap over HEAP[0..HEAP_N-1] (R122, R123). Every loop of the spec is a recursion on a bound that the loop cannot reach
(log 16). -/

namespace Sys2Proof.Machine

/-- The heap during one BUILD step (R38): HEAP and HEAP_N. -/
structure Heap where
  slots : Vector NodeId 256
  n     : Nat
deriving DecidableEq, Repr

/-- R121: less(a, b), by weight and then by the lower id. -/
def Arena.less (A : Arena) (a b : NodeId) : Bool :=
  decide (A.weightOf a < A.weightOf b) || (A.weightOf a == A.weightOf b && decide (a < b))

/-- HEAP[i]. A slot number above 255 is never used (R122); the 511 there is only what makes the function total (log 13). -/
def Heap.get (h : Heap) (i : Nat) : NodeId := h.slots[i]?.getD 511#9

/-- HEAP[i] <- id. -/
def Heap.put (h : Heap) (i : Nat) (id : NodeId) : Heap := { h with slots := h.slots.setIfInBounds i id }

/-- swap HEAP[i], HEAP[j]. -/
def Heap.swap (h : Heap) (i j : Nat) : Heap := (h.put i (h.get j)).put j (h.get i)

/-- R122: the while loop of heap_insert from slot i upward. -/
def Heap.siftUp (A : Arena) : Nat → Nat → Heap → Heap
  | 0, _, h => h
  | fuel + 1, i, h =>
    if i = 0 then h
    else if A.less (h.get i) (h.get ((i - 1) / 2)) then
      Heap.siftUp A fuel ((i - 1) / 2) (h.swap i ((i - 1) / 2))
    else h

/-- R122: heap_insert(id). -/
def Heap.insert (A : Arena) (h : Heap) (id : NodeId) : Heap :=
  Heap.siftUp A h.n h.n { h.put h.n id with n := h.n + 1 }

/-- R123: m after the comparison of slot m with slot c of the heap. -/
def Heap.smaller (A : Arena) (h : Heap) (c m : Nat) : Nat :=
  if c < h.n ∧ A.less (h.get c) (h.get m) = true then c else m

/-- R123: the loop of heap_popmin from slot i downward. -/
def Heap.siftDown (A : Arena) : Nat → Nat → Heap → Heap
  | 0, _, h => h
  | fuel + 1, i, h =>
    let m := h.smaller A (2 * i + 2) (h.smaller A (2 * i + 1) i)
    if m = i then h else Heap.siftDown A fuel m (h.swap i m)

/-- R123: heap_popmin(), the id it returns and the heap it leaves. -/
def Heap.popmin (A : Arena) (h : Heap) : NodeId × Heap :=
  let h1 : Heap := { h with n := h.n - 1 }
  (h.get 0, if h1.n > 0 then Heap.siftDown A h1.n 0 (h1.put 0 (h1.get h1.n)) else h1)

end Sys2Proof.Machine
end

