-- ==== Sys2Proof/Machine/Tree.lean ====
section
/-! DEFINITION. The tree builder BUILD (spec/42_tree.md R120, R125) and the tree readback READNODE (R131). -/

namespace Sys2Proof.Machine

/-- What BUILD works on: the node arena and the heap (R125). -/
structure Builder where
  arena : Arena
  heap  : Heap
deriving DecidableEq, Repr

/-- R125, step 1 for a present symbol: NODE_W[s] <- zext_40(FREQ[s]), heap_insert(s). -/
def Builder.addLeaf (f : Vector Word 256) (B : Builder) (sym : Sym) : Builder :=
  let A := B.arena.setWeight (leafId sym) ((freqOf f sym).setWidth 40)
  { arena := A, heap := B.heap.insert A (leafId sym) }

/-- R125: the id 256 + k of the k-th merge. -/
def mergeId (k : Nat) : NodeId := BitVec.ofNat 9 (256 + k)

/-- R125, step 2, the k-th merge: the first removed node is the left child, the second the right child. -/
def Builder.merge (B : Builder) (k : Nat) : Builder :=
  let (a, h1) := B.heap.popmin B.arena
  let (b, h2) := h1.popmin B.arena
  let A := (B.arena.setWeight (mergeId k) (B.arena.weightOf a + B.arena.weightOf b)).setChildren (mergeId k) a b
  { arena := A, heap := h2.insert A (mergeId k) }

/-- R125, step 2: merge while HEAP_N > 1. -/
def Builder.mergeAll : Nat → Nat → Builder → Builder
  | 0, _, B => B
  | fuel + 1, k, B => if B.heap.n > 1 then Builder.mergeAll fuel (k + 1) (B.merge k) else B

/-- R125: the arena and the root that BUILD leaves, from FREQ, the arena before it and the slots of HEAP before it. -/
def buildTree (f : Vector Word 256) (A : Arena) (slots : Vector NodeId 256) : Arena × NodeId :=
  let syms := presentSyms f
  let B0 : Builder := { arena := A, heap := { slots := slots, n := 0 } }
  let B := Builder.mergeAll syms.length 0 (syms.foldl (Builder.addLeaf f) B0)
  (B.arena, (B.heap.popmin B.arena).1)

/-- R125. HEAP and HEAP_N are unspecified once the command is complete (R38): free values (log 8). -/
def performBuild (s : State) : Except ErrCode State :=
  let n := (presentSyms s.freq).length
  if n = 0 then .error .emptyInput
  else
    let T := buildTree s.freq s.arena s.heap
    .ok { s with
      arena := T.1, root := T.2, nLeaves := BitVec.ofNat 9 n, phase := .tree
      heap := Config.freeHeap s.draws, heapN := Config.freeHeapN s.draws, draws := s.draws + 1 }

/-- R125: BUILD. -/
def execBuild (s : State) : Host.Outcome State Fault Refusal := .next (runCommand .build performBuild s)

/-- R131. A term with FLD = 3 is no command: its word records ILLEGAL_CMD (R76, R80; log 14). -/
def performReadnode (node : NodeId) (fld : BitVec 2) (s : State) : Except ErrCode State :=
  match s.nodeWord node fld with
  | some w => .ok { s with result := w }
  | none => .error .illegalCmd

/-- R131: READNODE node, fld. -/
def execReadnode (node : NodeId) (fld : BitVec 2) (s : State) : Host.Outcome State Fault Refusal :=
  .next (runCommand (.readnode node fld) (performReadnode node fld) s)

end Sys2Proof.Machine
end

