-- ==== Sys2Proof/Machine/Dispatch.lean ====
section
/-! DEFINITION. The block's step for a decoded command (spec/40_control.md R102): one arm per command of R78. -/

namespace Sys2Proof.Machine

def exec (i : Instr) (s : State) : Host.Outcome State Fault Refusal :=
  match i with
  | .nop => Sys2Proof.Machine.execNop s
  | .clear => Sys2Proof.Machine.execClear s
  | .count sym => Sys2Proof.Machine.execCount sym s
  | .setfreq sym => Sys2Proof.Machine.execSetfreq sym s
  | .readfreq sym => Sys2Proof.Machine.execReadfreq sym s
  | .build => Sys2Proof.Machine.execBuild s
  | .gencodes => Sys2Proof.Machine.execGencodes s
  | .readlen sym => Sys2Proof.Machine.execReadlen sym s
  | .readcode sym wrd => Sys2Proof.Machine.execReadcode sym wrd s
  | .readnode node fld => Sys2Proof.Machine.execReadnode node fld s
  | .encode sym => Sys2Proof.Machine.execEncode sym s
  | .flush => Sys2Proof.Machine.execFlush s
  | .abort => Sys2Proof.Machine.execAbort s

end Sys2Proof.Machine
end

