-- ==== Sys2Proof/Machine/Block.lean ====
section
/-! DEFINITION. One event of the run (spec/40_control.md R90): the block's step on the latched word (R93, R95, R102), or the
host's access, or a reset; and how the model places a command for the block. -/

namespace Sys2Proof.Machine

/-- The block's turn: with BUSY = 1 it decodes and executes PEND_CMD (R95, R102; exec says when it is held, R98); with
BUSY = 0 it is idle and all its state stays (R189). -/
def blockStep (s : State) : Host.Outcome State Fault Refusal :=
  if s.busy then
    match decode s.pendCmd with
    | .ok i => exec i s
    | .error _ => .next (runIllegal s)
  else .next s

/-- The next event of the total order (R59, R90). When the host has no more events to come the block goes on alone
(R103; log 2). -/
def runEvent (s : State) : Host.Outcome State Fault Refusal :=
  match s.schedule with
  | [] => blockStep s
  | .block :: rest => blockStep { s with schedule := rest }
  | .reset :: rest => .next (resetEvent { s with schedule := rest })
  | .read addr size :: rest => hostRead addr size { s with schedule := rest }
  | .write addr size data :: rest => hostWrite addr size data { s with schedule := rest }

/-- A command word latched as a CMD write would latch it (R91), and the block's turn next (log 3). -/
def State.placeCommand (s : State) (w : Word) : State :=
  { s.issue w with
    schedule :=
      match s.schedule with
      | [] => []
      | e :: rest => .block :: e :: rest }

end Sys2Proof.Machine
end

