-- ==== Sys2Proof/Machine/Step.lean ====
section
/-! DEFINITION. One step of the machine: the next event of the run (spec/40_control.md R90; spec/20_memory.md R59). -/

namespace Sys2Proof.Machine

/-- One step: the next event of the total order. -/
def step (s : State) : Host.Outcome State Fault Refusal := runEvent s

/-- s with the command word w latched as the host's CMD write would latch it, and the block's turn next, so that the very
next step runs it (R91, R93; log 3). -/
def State.withFetchWord (s : State) (nbits w : Nat) : State := s.placeCommand (BitVec.ofNat 32 (w % 2 ^ nbits))

end Sys2Proof.Machine
end

