-- ==== Sys2Proof/Safety.lean ====
section
/-! DEFINITION. The terms in which claims about the block are stated: runs of the machine and what happens along them, the
invariants of spec/10_state.md R43, the bit strings of the stream (spec/44_packer.md R159, R161), the set form of BUILD
(spec/42_tree.md R124), paths of the tree (spec/43_codes.md R140), what the host can observe of a run
(spec/70_reset_and_hazards.md R216) and its end (R215). -/

namespace Sys2Proof.Machine

/-! ### Steps and runs -/

/-- It is the block's turn (R90; log 2). -/
def State.blockTurn (s : State) : Bool :=
  match s.schedule with
  | [] => true
  | .block :: _ => true
  | .reset :: _ => false
  | .read _ _ :: _ => false
  | .write _ _ _ :: _ => false

/-- The next event is a reset (R200). -/
def State.resetNext (s : State) : Bool :=
  match s.schedule with
  | [] => false
  | .reset :: _ => true
  | .block :: _ => false
  | .read _ _ :: _ => false
  | .write _ _ _ :: _ => false

/-- The next event is a host write to CMD while BUSY = 1, an overrun (R92). -/
def State.overrunNext (s : State) : Bool :=
  match s.schedule with
  | [] => false
  | .write addr _ _ :: _ => s.busy && inWindow addr && regIndex addr == 3#4
  | .reset :: _ => false
  | .block :: _ => false
  | .read _ _ :: _ => false

/-- The pending command completes at the next step, and decodes to this instruction (R93, R98): performed, in error, or
ignored. -/
def State.completing (s : State) : Option Instr :=
  if s.blockTurn && s.busy then
    match decode s.pendCmd with
    | .ok i => if s.held i then none else some i
    | .error _ => none
  else none

/-- The command word and the operand that complete at the next step, an illegal word included (R93, R95). -/
def State.completingWord (s : State) : List (Word × Word) :=
  if s.blockTurn && s.busy then
    match decode s.pendCmd with
    | .ok i => if s.held i then [] else [(s.pendCmd, s.pendArg)]
    | .error _ => [(s.pendCmd, s.pendArg)]
  else []

/-- The symbol a successful ENCODE appends at the next step (R155). -/
def State.encodedSyms (s : State) : List Sym :=
  match s.completing with
  | some (.encode sym) =>
    if s.err = false ∧ s.phase = .codes ∧ (s.codes.lenOf sym).toNat ≠ 0 then [sym] else []
  | _ => []

/-- The symbol a COUNT performed at the next step counts (R111). -/
def State.countedSyms (s : State) : List Sym :=
  match s.completing with
  | some (.count sym) =>
    if s.err = false ∧ s.phase = .load ∧ freqOf s.freq sym ≠ 0xFFFFFFFF#32 then [sym] else []
  | _ => []

/-- n steps of the machine, none where a step stops. -/
def run : Nat → State → Option State
  | 0, s => some s
  | n + 1, s =>
    match step s with
    | .next t => run n t
    | .fault _ => none
    | .refused _ => none

/-- p holds in each of the first n states of the run from s (the states n steps are taken from). -/
def during (p : State → Prop) : Nat → State → Prop
  | 0, _ => True
  | n + 1, s => p s ∧ ∀ t, step s = .next t → during p n t

/-- What f reads off each of the first n states of the run from s, in order. -/
def gather {α : Type} (f : State → List α) : Nat → State → List α
  | 0, _ => []
  | n + 1, s =>
    f s ++
      match step s with
      | .next t => gather f n t
      | .fault _ => []
      | .refused _ => []

/-- The phase table's column of allowed phases (R97). -/
def allowedPhases : Instr → List Phase
  | .nop => [.load, .tree, .codes, .done]
  | .clear => [.load, .tree, .codes, .done]
  | .abort => [.load, .tree, .codes, .done]
  | .readfreq _ => [.load, .tree, .codes, .done]
  | .count _ => [.load]
  | .setfreq _ => [.load]
  | .build => [.load]
  | .gencodes => [.tree]
  | .readnode _ _ => [.tree, .codes, .done]
  | .readlen _ => [.codes, .done]
  | .readcode _ _ => [.codes, .done]
  | .encode _ => [.codes]
  | .flush => [.codes]

/-! ### Bit strings -/

/-- The low len bits of v, most significant first (R8, R9). -/
def msbFirst (len v : Nat) : List Bool := (List.range len).map fun i => v.testBit (len - 1 - i)

/-- The bits of the bytes in emission order (R66). -/
def bytesBits (bs : List Byte) : List Bool := bs.flatMap fun b => msbFirst 8 b.toNat

/-- The code of a symbol in emission order (R36: the first bit is bit L-1). -/
def codeString (T : CodeTable) (sym : Sym) : List Bool := msbFirst (T.lenOf sym).toNat (T.valOf sym).toNat

/-- The bits ACC holds, the oldest first (R39). -/
def State.pendingBits (s : State) : List Bool := msbFirst s.accCnt.toNat s.acc.toNat

/-- The bytes pushed in this run, in push order: those the host read and those still queued (R40, R66). -/
def State.pushedBytes (s : State) : List Byte := s.hostOut ++ s.outq

/-- The code bits of this run so far, in emission order (R159). -/
def State.streamBits (s : State) : List Bool := bytesBits s.pushedBytes ++ s.pendingBits

/-- R161: one turn of the bit-at-a-time loop, on ACC, ACC_CNT and OUTQ. -/
def serialBit (p : BitVec 8 × Nat × List Byte) (bit : Bool) : BitVec 8 × Nat × List Byte :=
  let acc := (p.1 <<< 1) ||| (BitVec.ofBool bit).setWidth 8
  if p.2.1 + 1 = 8 then (0#8, 0, p.2.2 ++ [acc]) else (acc, p.2.1 + 1, p.2.2)

/-- R161: the loop for i = L-1 downto 0. -/
def serialEncode (s : State) (sym : Sym) : BitVec 8 × Nat × List Byte :=
  (codeString s.codes sym).foldl serialBit (s.acc, s.accCnt.toNat, s.outq)

/-! ### The tree -/

/-- The ids a heap holds (R124). -/
def Heap.ids (h : Heap) : List NodeId := (List.range h.n).map h.get

/-- The order of a binary min-heap (R122): no slot is less than its parent. -/
def Heap.ordered (A : Arena) (h : Heap) : Prop :=
  ∀ i, 0 < i → i < h.n → A.less (h.get i) (h.get ((i - 1) / 2)) = false

/-- The least id of a nonempty list under less (R124). -/
def leastOf (A : Arena) : List NodeId → NodeId
  | [] => 511#9
  | a :: l => l.foldl (fun m b => if A.less b m then b else m) a

/-- R124: BUILD with the heap as a finite set of ids. -/
structure SetBuilder where
  arena : Arena
  ids   : List NodeId

/-- R125, step 1, on the set form. -/
def SetBuilder.addLeaf (f : Vector Word 256) (B : SetBuilder) (sym : Sym) : SetBuilder :=
  { arena := B.arena.setWeight (leafId sym) ((freqOf f sym).setWidth 40), ids := leafId sym :: B.ids }

/-- R125, step 2, on the set form: take out the two least ids and put in their parent. -/
def SetBuilder.merge (B : SetBuilder) (k : Nat) : SetBuilder :=
  let a := leastOf B.arena B.ids
  let b := leastOf B.arena (B.ids.erase a)
  { arena := (B.arena.setWeight (mergeId k) (B.arena.weightOf a + B.arena.weightOf b)).setChildren (mergeId k) a b
    ids := mergeId k :: (B.ids.erase a).erase b }

/-- R125 on the set form: n present symbols take n - 1 merges, and the one id left is the root. -/
def buildTreeBySet (f : Vector Word 256) (A : Arena) : Arena × NodeId :=
  let syms := presentSyms f
  let B0 := syms.foldl (SetBuilder.addLeaf f) { arena := A, ids := [] }
  let B := (List.range (syms.length - 1)).foldl SetBuilder.merge B0
  (B.arena, leastOf B.arena B.ids)

/-- The number of present symbols (R34). -/
def numPresent (f : Vector Word 256) : Nat := (presentSyms f).length

/-- The sum of FREQ[0..255] (R114, R127). -/
def freqTotal (f : Vector Word 256) : Nat := ((List.range 256).map fun i => (freqOf f (BitVec.ofNat 8 i)).toNat).sum

/-- The internal node ids of a tree of n leaves, 256..254+n (R126). -/
def internalIds (n : Nat) : List NodeId := (List.range (n - 1)).map mergeId

/-- How many times a node is a child of an internal node of a tree of n leaves (R126). -/
def timesChild (A : Arena) (n : Nat) (id : NodeId) : Nat :=
  (internalIds n).countP (fun m => A.leftOf m == id) + (internalIds n).countP (fun m => A.rightOf m == id)

/-- The node a path leads to, 0 to the left child and 1 to the right child (R140); none if the path goes on below a leaf. -/
def walk (A : Arena) : NodeId → List Bool → Option NodeId
  | n, [] => some n
  | n, b :: bs => if isLeafId n then none else walk A (if b then A.rightOf n else A.leftOf n) bs

/-! ### Invariants -/

/-- The state's tree is one BUILD makes from FREQ, whatever the arena and HEAP held before (R130, R133). -/
def State.treeBuilt (s : State) : Prop :=
  numPresent s.freq ≠ 0 ∧ s.nLeaves = BitVec.ofNat 9 (numPresent s.freq) ∧
    ∃ A slots, buildTree s.freq A slots = (s.arena, s.root)

/-- The invariants of R43. -/
structure Rule43 (s : State) : Prop where
  acc_lt    : s.acc.toNat < 2 ^ s.accCnt.toNat ∧ s.accCnt.toNat ≤ 7
  outq_le   : s.outq.length ≤ 64
  in_load   : s.phase = .load →
    s.nLeaves = 0#9 ∧ s.root = 0#9 ∧ (∀ sym, s.codes.lenOf sym = 0#8) ∧ s.bitcnt = 0#64
  in_tree   : s.phase = .tree →
    s.nLeaves.toNat = numPresent s.freq ∧ 1 ≤ s.nLeaves.toNat ∧ s.validNode s.root = true ∧
      ∀ sym, s.codes.lenOf sym = 0#8
  in_codes  : s.phase = .codes ∨ s.phase = .done →
    ∀ sym, s.codes.lenOf sym ≠ 0#8 ↔ freqOf s.freq sym ≠ 0#32
  in_done   : s.phase = .done → s.accCnt = 0#3

/-- The invariant of the machine: R43, and what it rests on: ERRCODE against ERR (R30), the tree (R130, R133), the code
table (R140), and no output before CODES (R27, R97). -/
structure Inv (s : State) : Prop where
  rule43    : Rule43 s
  errcode   : s.err = true ↔ s.errcode ≠ .noError
  tree      : s.phase ≠ .load → s.treeBuilt
  table     : s.phase = .codes ∨ s.phase = .done → s.codes = genTable s.arena s.root
  no_output : s.phase = .load ∨ s.phase = .tree → s.pushedBytes = [] ∧ s.accCnt = 0#3 ∧ s.bitcnt = 0#64

/-! ### What the host can observe of a run, and its end -/

/-- What READNODE can report of one node (R131): nothing of an invalid node. -/
def State.nodeView (s : State) (n : NodeId) : Option (Weight × Option (NodeId × NodeId)) :=
  if s.validNode n then
    some (s.arena.weightOf n, if isLeafId n then none else some (s.arena.leftOf n, s.arena.rightOf n))
  else none

/-- The run-determined part of a state (R216): the FrequencyTable, the tree, the code table, BITCNT, the byte stream with the
bits still pending, the phase, the error state and RESULT. -/
structure View where
  freq    : Vector Word 256
  tree    : List (Option (Weight × Option (NodeId × NodeId)))
  root    : NodeId
  nLeaves : BitVec 9
  codes   : CodeTable
  bitcnt  : BitVec 64
  pushed  : List Byte
  acc     : BitVec 8
  accCnt  : BitVec 3
  phase   : Phase
  err     : Bool
  errcode : ErrCode
  result  : Word
deriving DecidableEq, Repr

/-- The view of a state (R216). -/
def State.view (s : State) : View :=
  { freq := s.freq, tree := (List.range 512).map fun i => s.nodeView (BitVec.ofNat 9 i)
    root := s.root, nLeaves := s.nLeaves, codes := s.codes, bitcnt := s.bitcnt, pushed := s.pushedBytes
    acc := s.acc, accCnt := s.accCnt, phase := s.phase, err := s.err, errcode := s.errcode, result := s.result }

/-- R215: the states in which a run is complete. -/
def State.complete (s : State) : Bool := !s.busy && !s.err && s.phase == .done && s.outq.isEmpty

/-- R215: the states in which a run has failed. -/
def State.failed (s : State) : Bool := !s.busy && s.err

end Sys2Proof.Machine
end

