-- ==== Sys2Proof/Certificates/Slice0/Obligations.lean ====
section
/-! DEFINITION. The statements about the Huffman Core, from the numbered rules of spec/. A next state is often described by its
new values and by `t = { s with f := t.f, … }`, its frame: every field not named there is as it was. In such a frame the latch,
PEND_CMD and PEND_ARG, keeps its contents when a command completes: log 9. -/

open Sys2Proof Sys2Proof.Machine

/-! ### Reset and the register window -/

/-- R44, R201: the values the spec gives for reset. (PEND_CMD, PEND_ARG, the arena and HEAP have none; log 6, 7, 8.) -/
def Obligations.ResetStateValues : Prop :=
  State.reset.busy = false ∧ State.reset.err = false ∧ State.reset.errcode = .noError ∧ State.reset.phase = .load ∧
  State.reset.acc = 0#8 ∧ State.reset.accCnt = 0#3 ∧ State.reset.arg = 0#32 ∧ State.reset.result = 0#32 ∧
  (∀ sym, freqOf State.reset.freq sym = 0#32) ∧ State.reset.root = 0#9 ∧ State.reset.nLeaves = 0#9 ∧
  (∀ sym, State.reset.codes.lenOf sym = 0#8) ∧ (∀ sym, State.reset.codes.valOf sym = 0#255) ∧
  State.reset.outq = [] ∧ State.reset.bitcnt = 0#64

/-- R200: a reset event comes between any two steps, whatever is pending or held, and sets every value R44 gives. The host's
later events and the last bus answer are not the block's. -/
def Obligations.ResetEventSetsResetValues : Prop :=
  ∀ (s : State) (rest : List Event), s.schedule = .reset :: rest →
    ∃ t, step s = .next t ∧
      t.busy = false ∧ t.err = false ∧ t.errcode = .noError ∧ t.phase = .load ∧ t.acc = 0#8 ∧ t.accCnt = 0#3 ∧
      t.arg = 0#32 ∧ t.result = 0#32 ∧ (∀ sym, freqOf t.freq sym = 0#32) ∧ t.root = 0#9 ∧ t.nLeaves = 0#9 ∧
      (∀ sym, t.codes.lenOf sym = 0#8) ∧ (∀ sym, t.codes.valOf sym = 0#255) ∧ t.outq = [] ∧ t.bitcnt = 0#64 ∧
      t.readReg 0#4 = 0x48554631#32 ∧ t.schedule = rest ∧ t.rdata = s.rdata

/-- R24: ID reads 0x4855_4631 in every state, so a reset does not change it either. -/
def Obligations.IdReadsConstant : Prop :=
  ∀ s : State, s.readReg 0#4 = 0x48554631#32 ∧ (resetEvent s).readReg 0#4 = 0x48554631#32

/-- R22 to R25, R30, R31, R32, R35, R41, R157, R158: what a read of each of the sixteen registers returns, most as a number.
OUTLEVEL is stated for a queue the block can hold (at most 64 bytes, R40). That TREEINFO reads NLEAVES and ROOT in every phase
is the model's inference (log 21); that it reads 0 in LOAD (R35) is stated of the states that meet the invariants of R43. -/
def Obligations.RegisterReadValues : Prop :=
  ∀ s : State,
    s.readReg 0x0#4 = 0x48554631#32 ∧
    (s.readReg 0x1#4).toNat =
      256 * s.accCnt.toNat + 4 * (match s.phase with | .load => 0 | .tree => 1 | .codes => 2 | .done => 3) +
        2 * (if s.err then 1 else 0) + (if s.busy then 1 else 0) ∧
    (s.readReg 0x2#4).toNat =
      (match s.errcode with
        | .noError => 0 | .emptyInput => 1 | .invalidTree => 2 | .unknownSymbol => 3 | .ioFailure => 4
        | .badPhase => 5 | .illegalCmd => 6 | .cmdOverrun => 7 | .freqOverflow => 8) ∧
    s.readReg 0x3#4 = 0#32 ∧ s.readReg 0x4#4 = s.arg ∧ s.readReg 0x5#4 = s.result ∧
    (s.readReg 0x6#4).toNat = (match s.outq with | [] => 0 | b :: _ => 256 + b.toNat) ∧
    (s.outq.length ≤ 64 → (s.readReg 0x7#4).toNat = s.outq.length) ∧
    (s.readReg 0x8#4).toNat = 65536 * s.nLeaves.toNat + s.root.toNat ∧
    (Rule43 s → s.phase = .load → s.readReg 0x8#4 = 0#32) ∧
    (s.readReg 0x9#4).toNat = s.bitcnt.toNat % 2 ^ 32 ∧ (s.readReg 0xA#4).toNat = s.bitcnt.toNat / 2 ^ 32 ∧
    (∀ idx : BitVec 4, 0xB ≤ idx.toNat → s.readReg idx = 0#32)

/-- R51, R54: the four addresses of the aligned word k of the window select register k. -/
def Obligations.AddressSelectsRegister : Prop :=
  ∀ k j : Nat, k < 16 → j < 4 →
    inWindow (Config.hccBase + 4 * k + j) = true ∧ regIndex (Config.hccBase + 4 * k + j) = BitVec.ofNat 4 k

/-- R51, U15: an access outside HCC_BASE .. HCC_BASE + 0x3F is not the block's: no step. -/
def Obligations.OutsideWindowIsRefused : Prop :=
  ∀ (s : State) (addr : Nat) (size : Size) (data : Word) (rest : List Event),
    (addr < Config.hccBase ∨ Config.hccBase + 0x3F < addr) →
    (s.schedule = .read addr size :: rest ∨ s.schedule = .write addr size data :: rest) →
    step s = .refused .outsideWindow

/-- R55, R52: a read of any register but OUTDATA, of whatever size, returns the whole register and changes no state. -/
def Obligations.ReadsAreIdempotent : Prop :=
  ∀ (s : State) (addr : Nat) (size : Size) (rest : List Event),
    s.schedule = .read addr size :: rest → inWindow addr = true → regIndex addr ≠ 6#4 →
    step s = .next { s with schedule := rest, rdata := s.readReg (regIndex addr) }

/-- R157: a read of OUTDATA returns the head byte with VALID = 1 and pops it, or 0 and pops nothing. The popped byte joins
the host's record (log 4). -/
def Obligations.OutdataReadPops : Prop :=
  ∀ (s : State) (addr : Nat) (size : Size) (rest : List Event),
    s.schedule = .read addr size :: rest → inWindow addr = true → regIndex addr = 6#4 →
    (∀ b q, s.outq = b :: q →
      step s = .next { s with schedule := rest, outq := q, hostOut := s.hostOut ++ [b], rdata := 0#23 ++ 1#1 ++ b }) ∧
    (s.outq = [] → step s = .next { s with schedule := rest, rdata := 0#32 })

/-- R22, R23, R31, R55: a 32-bit write to ARG stores all 32 bits; a write to any other register but CMD is ignored. -/
def Obligations.WritesBesideCmd : Prop :=
  ∀ (s : State) (addr : Nat) (data : Word) (rest : List Event),
    s.schedule = .write addr .word data :: rest → inWindow addr = true → regIndex addr ≠ 3#4 →
    (regIndex addr = 4#4 → step s = .next { s with schedule := rest, arg := data }) ∧
    (regIndex addr ≠ 4#4 → step s = .next { s with schedule := rest })

/-- R52, U11: a write narrower than 32 bits gives the register a drawn 32-bit word, whatever data the host drove: the step is
that of a 32-bit write of the drawn word. -/
def Obligations.NarrowWriteDrawsWord : Prop :=
  ∀ (s : State) (addr : Nat) (size : Size) (data : Word) (rest : List Event),
    s.schedule = .write addr size data :: rest → inWindow addr = true → size ≠ .word →
    step s =
      step { s with schedule := .write addr .word (Config.freeBusWord s.draws) :: rest, draws := s.draws + 1 }

/-- R91: a 32-bit write of w to CMD with BUSY = 0 latches w and ARG and sets BUSY, whatever w is, and
nothing else changes: every register but STATUS reads as before. -/
def Obligations.CmdWriteIssues : Prop :=
  ∀ (s : State) (addr : Nat) (w : Word) (rest : List Event),
    s.schedule = .write addr .word w :: rest → inWindow addr = true → regIndex addr = 3#4 → s.busy = false →
    ∃ t, step s = .next t ∧ t = { s with schedule := rest, pendCmd := w, pendArg := s.arg, busy := true } ∧
      ∀ idx : BitVec 4, idx ≠ 1#4 → t.readReg idx = s.readReg idx

/-- R92: a write to CMD with BUSY = 1 drops both commands, clears BUSY, and records CMD_OVERRUN unless an error is
recorded already. That PEND_CMD and PEND_ARG keep their contents is the model's inference (log 9; 93 U8: any value). -/
def Obligations.CmdWriteOverruns : Prop :=
  ∀ (s : State) (addr : Nat) (w : Word) (rest : List Event),
    s.schedule = .write addr .word w :: rest → inWindow addr = true → regIndex addr = 3#4 → s.busy = true →
    (s.err = true → step s = .next { s with schedule := rest, busy := false }) ∧
    (s.err = false →
      step s = .next { s with schedule := rest, busy := false, err := true, errcode := .cmdOverrun })

/-! ### Encoding -/

/-- R78, R79, R80 on words written out by hand (the decode vectors of spec/95_test_vectors.md, section 3). -/
def Obligations.DecodeOfSpecWords : Prop :=
  decode 0x00000000#32 = .ok .nop ∧ decode 0x01000000#32 = .ok .clear ∧
  decode 0x01000001#32 = .error .reservedBitSet ∧ decode 0x02000061#32 = .ok (.count 0x61#8) ∧
  decode 0x02000100#32 = .error .reservedBitSet ∧ decode 0x030000FF#32 = .ok (.setfreq 0xFF#8) ∧
  decode 0x04000000#32 = .ok (.readfreq 0#8) ∧ decode 0x05000000#32 = .ok .build ∧
  decode 0x06000000#32 = .ok .gencodes ∧ decode 0x07000072#32 = .ok (.readlen 0x72#8) ∧
  decode 0x08000761#32 = .ok (.readcode 0x61#8 7#3) ∧ decode 0x08000861#32 = .error .reservedBitSet ∧
  decode 0x09000503#32 = .ok (.readnode 259#9 2#2) ∧ decode 0x090001FF#32 = .ok (.readnode 511#9 0#2) ∧
  decode 0x09000200#32 = .ok (.readnode 0#9 1#2) ∧ decode 0x09000600#32 = .error .fieldThree ∧
  decode 0x0A000000#32 = .ok (.encode 0#8) ∧ decode 0x0B000000#32 = .ok .flush ∧
  decode 0x0C000000#32 = .ok .abort ∧ decode 0x0D000000#32 = .error .unassignedOpcode ∧
  decode 0xFF000000#32 = .error .unassignedOpcode ∧ decode 0x0A800061#32 = .error .reservedBitSet

/-- R79, R83: decoding the word of a well-formed command gives the command back, with every operand at every value. -/
def Obligations.DecodeOfEncode : Prop := ∀ i : Instr, i.wellFormed = true → decode (encode i) = .ok i

/-- R79, R80: a word that decodes is the word of the well-formed command it decodes to, so every command has one word. -/
def Obligations.EncodeOfDecode : Prop :=
  ∀ (w : Word) (i : Instr), decode w = .ok i → i.wellFormed = true ∧ encode i = w

/-- R78: a word selects a row exactly when (w AND mask) = match, and for READNODE also w[10:9] ≠ 3. -/
def Obligations.WordSelectsRow : Prop :=
  ∀ w : Word,
    (decode w = .ok .nop ↔ w &&& 0xFFFFFFFF#32 = 0x00000000#32) ∧
    (decode w = .ok .clear ↔ w &&& 0xFFFFFFFF#32 = 0x01000000#32) ∧
    ((∃ sym, decode w = .ok (.count sym)) ↔ w &&& 0xFFFFFF00#32 = 0x02000000#32) ∧
    ((∃ sym, decode w = .ok (.setfreq sym)) ↔ w &&& 0xFFFFFF00#32 = 0x03000000#32) ∧
    ((∃ sym, decode w = .ok (.readfreq sym)) ↔ w &&& 0xFFFFFF00#32 = 0x04000000#32) ∧
    (decode w = .ok .build ↔ w &&& 0xFFFFFFFF#32 = 0x05000000#32) ∧
    (decode w = .ok .gencodes ↔ w &&& 0xFFFFFFFF#32 = 0x06000000#32) ∧
    ((∃ sym, decode w = .ok (.readlen sym)) ↔ w &&& 0xFFFFFF00#32 = 0x07000000#32) ∧
    ((∃ sym wrd, decode w = .ok (.readcode sym wrd)) ↔ w &&& 0xFFFFF800#32 = 0x08000000#32) ∧
    ((∃ node fld, decode w = .ok (.readnode node fld)) ↔
      w &&& 0xFFFFF800#32 = 0x09000000#32 ∧ w.extractLsb' 9 2 ≠ 3#2) ∧
    ((∃ sym, decode w = .ok (.encode sym)) ↔ w &&& 0xFFFFFF00#32 = 0x0A000000#32) ∧
    (decode w = .ok .flush ↔ w &&& 0xFFFFFFFF#32 = 0x0B000000#32) ∧
    (decode w = .ok .abort ↔ w &&& 0xFFFFFFFF#32 = 0x0C000000#32)

/-! ### The block's step -/

/-- R93, R95, R102: on the block's turn with BUSY = 1, a step is exec of the instruction PEND_CMD decodes to; the turn itself
leaves the schedule, and nothing else is done around exec. -/
def Obligations.StepRunsDecodedCommand : Prop :=
  ∀ (s : State) (i : Instr), s.busy = true → decode s.pendCmd = .ok i →
    (s.schedule = [] → step s = exec i s) ∧
    (∀ rest, s.schedule = .block :: rest → step s = exec i { s with schedule := rest })

/-- R80, R96, R178: executing an illegal word records ILLEGAL_CMD when ERR = 0 and is ignored when ERR = 1, in every phase;
nothing else changes. -/
def Obligations.IllegalWordIsRecorded : Prop :=
  ∀ (s : State) (e : Illegal), s.blockTurn = true → s.busy = true → decode s.pendCmd = .error e →
    (s.err = false →
      step s = .next { s with schedule := s.schedule.tail, err := true, errcode := .illegalCmd, busy := false }) ∧
    (s.err = true → step s = .next { s with schedule := s.schedule.tail, busy := false })

/-- R189: with BUSY = 0 the block is idle on its turn, and all its state stays. That such a turn is a step at all, which only
leaves the schedule, is the model's choice (log 1, 2): R90 gives the block no step then. -/
def Obligations.IdleBlockKeepsState : Prop :=
  ∀ s : State, s.busy = false → s.blockTurn = true → step s = .next { s with schedule := s.schedule.tail }

/-- R96: while ERR = 1 every command but CLEAR is ignored, an illegal word too: BUSY falls and nothing else changes, and
ERRCODE stays. CLEAR is performed. -/
def Obligations.ErrorStateIgnoresCommands : Prop :=
  ∀ s : State, s.err = true →
    (∀ i : Instr, i ≠ .clear → exec i s = .next { s with busy := false }) ∧
    (∀ e : Illegal, s.blockTurn = true → s.busy = true → decode s.pendCmd = .error e →
      step s = .next { s with schedule := s.schedule.tail, busy := false }) ∧
    (∃ t, exec .clear s = .next t ∧ t.busy = false ∧ t.err = false ∧ t.errcode = .noError ∧ t.phase = .load)

/-- R97: the phase table. A command executed with ERR = 0 in a phase its row does not allow records the row's error and
changes nothing else. -/
def Obligations.PhaseTable : Prop :=
  ∀ (i : Instr) (s : State), s.err = false → s.phase ∉ allowedPhases i →
    exec i s = .next { s with
      err := true, busy := false
      errcode := if i = .gencodes ∧ s.phase = .load then .invalidTree else .badPhase }

/-- R94: a command or an illegal word that records an error changes nothing except ERR, ERRCODE and BUSY. -/
def Obligations.ErrorsArePrecise : Prop :=
  ∀ s t : State, s.blockTurn = true → s.err = false → step s = .next t → t.err = true →
    t = { s with schedule := s.schedule.tail, err := true, errcode := t.errcode, busy := false } ∧ t.errcode ≠ .noError

/-- R181: the error flag and the first error's code stay, whatever happens, until a CLEAR completes or a reset
comes; those two clear both. -/
def Obligations.FirstErrorStays : Prop :=
  ∀ s t : State, s.err = true → step s = .next t →
    (t.err = true ∧ t.errcode = s.errcode ∧ s.completing ≠ some .clear ∧ s.resetNext = false) ∨
    (t.err = false ∧ t.errcode = .noError ∧ (s.completing = some .clear ∨ s.resetNext = true))

/-- R27: PHASE changes only at the completion of a BUILD (LOAD to TREE), a GENCODES (TREE to CODES), a FLUSH (CODES to DONE)
or a CLEAR (to LOAD), and at reset (to LOAD); never at a step that leaves ERR = 1, so an error does not change it. Each of
these, completing without an error, leaves its phase; STATUS shows LOAD, TREE, CODES, DONE as 0, 1, 2, 3. -/
def Obligations.PhaseOrder : Prop :=
  ∀ s t : State, step s = .next t →
    (t.phase ≠ s.phase → t.err = false ∧ (
      (s.completing = some .build ∧ s.phase = .load ∧ t.phase = .tree) ∨
      (s.completing = some .gencodes ∧ s.phase = .tree ∧ t.phase = .codes) ∨
      (s.completing = some .flush ∧ s.phase = .codes ∧ t.phase = .done) ∨
      (s.completing = some .clear ∧ t.phase = .load) ∨
      (s.resetNext = true ∧ t.phase = .load))) ∧
    (t.err = false →
      (s.completing = some .build → t.phase = .tree) ∧ (s.completing = some .gencodes → t.phase = .codes) ∧
      (s.completing = some .flush → t.phase = .done) ∧ (s.completing = some .clear → t.phase = .load)) ∧
    (s.resetNext = true → t.phase = .load) ∧
    ((t.readReg 1#4).toNat / 4 % 8 = match t.phase with | .load => 0 | .tree => 1 | .codes => 2 | .done => 3)

/-- R34: FREQ changes only by COUNT and SETFREQ in LOAD, and by CLEAR and reset; so no command writes it in TREE, CODES or
DONE within a run. -/
def Obligations.FreqChangesOnlyInLoad : Prop :=
  ∀ s t : State, step s = .next t → t.freq ≠ s.freq →
    (s.phase = .load ∧ s.err = false ∧ ∃ sym, s.completing = some (.count sym) ∨ s.completing = some (.setfreq sym)) ∨
    s.completing = some .clear ∨ s.resetNext = true

/-- R32: RESULT changes only at the completion of a READFREQ, READLEN, READCODE or READNODE with ERR = 0, or by CLEAR or
reset; and a step that records an error leaves it unchanged. -/
def Obligations.ResultChangesOnlyByReads : Prop :=
  ∀ s t : State, step s = .next t → t.result ≠ s.result →
    (s.err = false ∧ t.err = false ∧
      ((∃ sym, s.completing = some (.readfreq sym)) ∨ (∃ sym, s.completing = some (.readlen sym)) ∨
        (∃ sym wrd, s.completing = some (.readcode sym wrd)) ∨
        (∃ node fld, s.completing = some (.readnode node fld)))) ∨
    s.completing = some .clear ∨ s.resetNext = true

/-- R133: the node arena, ROOT and NLEAVES change only by BUILD in LOAD, and by CLEAR and reset; and once there is a tree,
every node reads the same, and is valid or not the same, until a CLEAR completes or a reset comes. -/
def Obligations.TreeChangesOnlyByBuild : Prop :=
  ∀ s t : State, step s = .next t →
    ((t.arena ≠ s.arena ∨ t.root ≠ s.root ∨ t.nLeaves ≠ s.nLeaves) →
      (s.completing = some .build ∧ s.phase = .load) ∨ s.completing = some .clear ∨ s.resetNext = true) ∧
    (s.phase ≠ .load → s.completing ≠ some .clear → s.resetNext = false → ∀ n, t.nodeView n = s.nodeView n)

/-- R158, R157, R66: the bytes pushed in a run (those the host popped, then those in OUTQ) change only by an ENCODE or a FLUSH
completing in CODES, which add bytes at the end, and by CLEAR and reset; no pop, no overrun and no error changes them. -/
def Obligations.PushedBytesGrowOnlyByPacker : Prop :=
  ∀ s t : State, step s = .next t → t.pushedBytes ≠ s.pushedBytes →
    (s.phase = .codes ∧ s.err = false ∧ (s.completing = some .flush ∨ ∃ sym, s.completing = some (.encode sym)) ∧
      ∃ bs, t.pushedBytes = s.pushedBytes ++ bs) ∨
    s.completing = some .clear ∨ s.resetNext = true

/-- R98: an ENCODE or FLUSH that needs more room than OUTQ has, with ERR = 0 in CODES, does not execute: nothing changes and
BUSY stays. -/
def Obligations.HeldCommandWaits : Prop :=
  ∀ s : State, s.err = false → s.phase = .codes →
    (∀ sym, 64 < (s.accCnt.toNat + (s.codes.lenOf sym).toNat) / 8 + s.outq.length → exec (.encode sym) s = .next s) ∧
    (64 < (if s.accCnt.toNat > 0 then 1 else 0) + s.outq.length → exec .flush s = .next s)

/-- R26, R93, R98: a command executed with room for what it needs completes, and BUSY is 0 after it; a command that is no
ENCODE or FLUSH always does, and with an empty OUTQ every command does. -/
def Obligations.UnheldCommandCompletes : Prop :=
  ∀ (i : Instr) (s : State),
    (s.outq = [] ∨
      (match i with
        | .encode sym => (s.accCnt.toNat + (s.codes.lenOf sym).toNat) / 8 + s.outq.length ≤ 64
        | .flush => (if s.accCnt.toNat > 0 then 1 else 0) + s.outq.length ≤ 64
        | _ => True)) →
    ∃ t, exec i s = .next t ∧ t.busy = false

/-! ### The control and frequency commands -/

/-- R99: NOP changes nothing but BUSY, in every phase. -/
def Obligations.NopOnlyClearsBusy : Prop := ∀ s : State, exec .nop s = .next { s with busy := false }

/-- R100, R44, R181: CLEAR, in every phase and whatever ERR is, gives the reset values; unread output is discarded. -/
def Obligations.ClearSetsResetValues : Prop :=
  ∀ s : State, ∃ t, exec .clear s = .next t ∧
    t.busy = false ∧ t.err = false ∧ t.errcode = .noError ∧ t.phase = .load ∧ t.acc = 0#8 ∧ t.accCnt = 0#3 ∧
    t.arg = 0#32 ∧ t.result = 0#32 ∧ (∀ sym, freqOf t.freq sym = 0#32) ∧ t.root = 0#9 ∧ t.nLeaves = 0#9 ∧
    (∀ sym, t.codes.lenOf sym = 0#8) ∧ (∀ sym, t.codes.valOf sym = 0#255) ∧ t.outq = [] ∧ t.bitcnt = 0#64 ∧
    t.schedule = s.schedule ∧ t.rdata = s.rdata

/-- R101: ABORT with ERR = 0 records IO_FAILURE, in every phase, and changes no data. -/
def Obligations.AbortRecordsIoFailure : Prop :=
  ∀ s : State, s.err = false → exec .abort s = .next { s with err := true, errcode := .ioFailure, busy := false }

/-- R111, R110: COUNT in LOAD adds 1 to the symbol's count, for every symbol, and every other count and all else stay; at
0xFFFF_FFFF it records FREQ_OVERFLOW and leaves the count. -/
def Obligations.CountAddsOne : Prop :=
  ∀ (sym : Sym) (s : State), s.err = false → s.phase = .load →
    ((freqOf s.freq sym).toNat < 2 ^ 32 - 1 →
      ∃ t, exec (.count sym) s = .next t ∧ (freqOf t.freq sym).toNat = (freqOf s.freq sym).toNat + 1 ∧
        (∀ x, x ≠ sym → freqOf t.freq x = freqOf s.freq x) ∧ t = { s with freq := t.freq, busy := false }) ∧
    (freqOf s.freq sym = 0xFFFFFFFF#32 →
      exec (.count sym) s = .next { s with err := true, errcode := .freqOverflow, busy := false })

/-- R112, R207: SETFREQ in LOAD sets the symbol's count to PEND_ARG, the value latched at issue, whatever ARG holds by
then; every other count and all else stay. -/
def Obligations.SetfreqLoadsLatchedArg : Prop :=
  ∀ (sym : Sym) (s : State), s.err = false → s.phase = .load →
    ∃ t, exec (.setfreq sym) s = .next t ∧ freqOf t.freq sym = s.pendArg ∧
      (∀ x, x ≠ sym → freqOf t.freq x = freqOf s.freq x) ∧ t = { s with freq := t.freq, busy := false }

/-- R113: READFREQ, in every phase, answers the symbol's count in RESULT and changes nothing else. -/
def Obligations.ReadfreqAnswersCount : Prop :=
  ∀ (sym : Sym) (s : State), s.err = false →
    exec (.readfreq sym) s = .next { s with result := freqOf s.freq sym, busy := false }

/-- From R111 (the inference the spec makes in R114): along a run with no SETFREQ, CLEAR or reset in it, the sum of FREQ grows by the number of COUNTs performed. -/
def Obligations.FreqTotalCountsCounts : Prop :=
  ∀ (n : Nat) (s t : State),
    during (fun u => u.resetNext = false ∧ u.completing ≠ some .clear ∧ ∀ sym, u.completing ≠ some (.setfreq sym)) n s →
    run n s = some t →
    freqTotal t.freq = freqTotal s.freq + (gather State.countedSyms n s).length

/-! ### The tree -/

/-- R125, C6: BUILD in LOAD with no present symbol records EMPTY_INPUT and changes nothing else. -/
def Obligations.BuildOnEmptyTable : Prop :=
  ∀ s : State, s.err = false → s.phase = .load → (∀ sym, freqOf s.freq sym = 0#32) →
    exec .build s = .next { s with err := true, errcode := .emptyInput, busy := false }

/-- R125, R129: BUILD in LOAD with a present symbol completes in TREE, NLEAVES the number of present symbols, and writes
nothing but the tree (and HEAP, which is unspecified after it: log 8, as is the model's own draw counter). With one present
symbol the root is its leaf. -/
def Obligations.BuildCompletes : Prop :=
  ∀ s : State, s.err = false → s.phase = .load → (∃ sym, freqOf s.freq sym ≠ 0#32) →
    ∃ t, exec .build s = .next t ∧ t.phase = .tree ∧ t.nLeaves.toNat = numPresent s.freq ∧ 1 ≤ t.nLeaves.toNat ∧
      (∀ sym, (∀ x, freqOf s.freq x ≠ 0#32 ↔ x = sym) → t.root = leafId sym ∧ t.nLeaves = 1#9) ∧
      t = { s with
        arena := t.arena, root := t.root, nLeaves := t.nLeaves, phase := .tree, busy := false
        heap := t.heap, heapN := t.heapN, draws := t.draws }

/-- R122, R123 (and the inference the spec makes of them in R124): on a heap in min-heap order, heap_insert adds the id and heap_popmin takes out the least id under
less, whatever the slots hold; both keep the order. -/
def Obligations.HeapPopsLeast : Prop :=
  ∀ (A : Arena) (h : Heap), h.ordered A →
    (∀ id, h.n < 256 → (h.insert A id).ordered A ∧ ((h.insert A id).ids).Perm (id :: h.ids)) ∧
    (0 < h.n → h.n ≤ 256 →
      (∀ x ∈ h.ids, x = (h.popmin A).1 ∨ A.less (h.popmin A).1 x = true) ∧ (h.popmin A).2.ordered A ∧
        (h.popmin A).2.ids.Perm (h.ids.erase (h.popmin A).1))

/-- R121 to R125 (the inference the spec makes in R124): BUILD on the reference binary heap gives the arena and the root that BUILD on a plain set of ids gives,
whatever the slots of HEAP held before. -/
def Obligations.BuildEqualsSetForm : Prop :=
  ∀ (f : Vector Word 256) (A : Arena) (slots : Vector NodeId 256), (∃ sym, freqOf f sym ≠ 0#32) →
    buildTree f A slots = buildTreeBySet f A

/-- From R124 and R125 (the inference the spec makes in R130): the same FREQ gives the same nodes, ROOT and NLEAVES on every BUILD. -/
def Obligations.BuildDependsOnlyOnFreq : Prop :=
  ∀ s s' t t' : State, s.err = false → s'.err = false → s.phase = .load → s'.phase = .load → s.freq = s'.freq →
    (∃ sym, freqOf s.freq sym ≠ 0#32) → exec .build s = .next t → exec .build s' = .next t' →
    (∀ n, t.nodeView n = t'.nodeView n) ∧ t.root = t'.root ∧ t.nLeaves = t'.nLeaves

/-- From R120 and R125 (the inference the spec makes in R126): after a BUILD with n present symbols, n - 1 merges were made (the internal nodes are 256..254+n), the root is the
last node created when n ≥ 2, every other valid node is the child of exactly one internal node, once, and a child's id is
below its parent's and valid. -/
def Obligations.TreeShape : Prop :=
  ∀ s : State, s.err = false → s.phase = .load → (∃ sym, freqOf s.freq sym ≠ 0#32) →
    ∃ t, exec .build s = .next t ∧
      (∀ x : NodeId, 256 ≤ x.toNat → (t.validNode x = true ↔ x.toNat ≤ 254 + numPresent s.freq)) ∧
      (2 ≤ numPresent s.freq → t.root.toNat = 254 + numPresent s.freq) ∧
      (∀ x, t.validNode x = true → x ≠ t.root → timesChild t.arena (numPresent s.freq) x = 1) ∧
      (∀ m ∈ internalIds (numPresent s.freq),
        t.validNode (t.arena.leftOf m) = true ∧ t.validNode (t.arena.rightOf m) = true ∧
        (t.arena.leftOf m).toNat < m.toNat ∧ (t.arena.rightOf m).toNat < m.toNat)

/-- From R125 and R6 (the inference the spec makes in R127): after a BUILD a leaf's weight is its count, an internal node's weight is the exact sum of its children's, and the
root's weight is the sum of FREQ, which 40 bits hold. -/
def Obligations.TreeWeights : Prop :=
  ∀ s : State, s.err = false → s.phase = .load → (∃ sym, freqOf s.freq sym ≠ 0#32) →
    ∃ t, exec .build s = .next t ∧
      (∀ sym, freqOf s.freq sym ≠ 0#32 → (t.arena.weightOf (leafId sym)).toNat = (freqOf s.freq sym).toNat) ∧
      (∀ m ∈ internalIds (numPresent s.freq), (t.arena.weightOf m).toNat =
        (t.arena.weightOf (t.arena.leftOf m)).toNat + (t.arena.weightOf (t.arena.rightOf m)).toNat) ∧
      (t.arena.weightOf t.root).toNat = freqTotal s.freq ∧ freqTotal s.freq < 2 ^ 40

/-- From R125 (the general knowledge the spec adds in R128): the weight of the k-th internal node is at most that of the
(k+1)-th. -/
def Obligations.MergeWeightsNeverDecrease : Prop :=
  ∀ s : State, s.err = false → s.phase = .load → (∃ sym, freqOf s.freq sym ≠ 0#32) →
    ∃ t, exec .build s = .next t ∧
      ∀ k, k + 1 < numPresent s.freq - 1 →
        (t.arena.weightOf (mergeId k)).toNat ≤ (t.arena.weightOf (mergeId (k + 1))).toNat

/-- R131, R37, R81: READNODE in TREE, CODES or DONE answers the field of a valid node, and 0 of an invalid one (511 among
them), and changes nothing else. FLD is WLO, WHI or LINK. -/
def Obligations.ReadnodeAnswersField : Prop :=
  ∀ (node : NodeId) (fld : BitVec 2) (s : State), s.err = false → s.phase ≠ .load → fld ≠ 3#2 →
    ∃ t, exec (.readnode node fld) s = .next t ∧ t = { s with result := t.result, busy := false } ∧
      ((if node.toNat ≤ 255 then freqOf s.freq (node.setWidth 8) = 0#32 else 254 + s.nLeaves.toNat < node.toNat) →
        t.result = 0#32) ∧
      ((if node.toNat ≤ 255 then freqOf s.freq (node.setWidth 8) ≠ 0#32 else node.toNat ≤ 254 + s.nLeaves.toNat) →
        (fld = 0#2 → t.result.toNat = (s.arena.weightOf node).toNat % 2 ^ 32) ∧
        (fld = 1#2 → t.result.toNat = (s.arena.weightOf node).toNat / 2 ^ 32) ∧
        (fld = 2#2 → node.toNat ≤ 255 → t.result = 0x80000000#32) ∧
        (fld = 2#2 → 256 ≤ node.toNat → t.result.toNat =
          0xC0000000 + 65536 * (s.arena.leftOf node).toNat + (s.arena.rightOf node).toNat))

/-! ### The code table -/

/-- R140, R141: GENCODES in TREE completes in CODES and writes nothing but the code table; the tree stays. For a tree of one
leaf the code is "0" and every other symbol has none. -/
def Obligations.GencodesCompletes : Prop :=
  ∀ s : State, s.err = false → s.phase = .tree →
    ∃ t, exec .gencodes s = .next t ∧ t = { s with codes := t.codes, phase := .codes, busy := false } ∧
      (s.root.toNat ≤ 255 →
        t.codes.lenOf (s.root.setWidth 8) = 1#8 ∧ t.codes.valOf (s.root.setWidth 8) = 0#255 ∧
        ∀ x, x ≠ s.root.setWidth 8 → t.codes.lenOf x = 0#8 ∧ t.codes.valOf x = 0#255)

/-- R140, R36, R145: with two or more leaves, the code of a present symbol is the path from the root to its leaf, 0 to the left and
1 to the right, first bit at the top; the bits of CODE_VAL above the code are 0, and an absent symbol has no code and all
bits of its CODE_VAL are 0. -/
def Obligations.CodesArePaths : Prop :=
  ∀ s : State, Inv s → s.err = false → s.phase = .tree → 2 ≤ s.nLeaves.toNat →
    ∃ t, exec .gencodes s = .next t ∧
      (∀ sym, freqOf s.freq sym ≠ 0#32 →
        walk t.arena t.root (codeString t.codes sym) = some (leafId sym) ∧
        (t.codes.valOf sym).toNat < 2 ^ (t.codes.lenOf sym).toNat) ∧
      ∀ sym, freqOf s.freq sym = 0#32 → t.codes.lenOf sym = 0#8 ∧ t.codes.valOf sym = 0#255

/-- From R125, R140 and R141 (the inference the spec makes in R143): after a GENCODES a symbol has a code exactly when it is present, no code begins another symbol's code, and the
lengths fill the Kraft sum: 1 with two or more leaves, 1/2 with one. -/
def Obligations.CodesArePrefixFree : Prop :=
  ∀ s : State, Inv s → s.err = false → s.phase = .tree →
    ∃ t, exec .gencodes s = .next t ∧
      (∀ sym, (t.codes.lenOf sym).toNat ≠ 0 ↔ freqOf s.freq sym ≠ 0#32) ∧
      (∀ a b, freqOf s.freq a ≠ 0#32 → freqOf s.freq b ≠ 0#32 → a ≠ b →
        ¬ (codeString t.codes a) <+: (codeString t.codes b)) ∧
      (((presentSyms s.freq).map fun sym => 2 ^ (255 - (t.codes.lenOf sym).toNat)).sum =
        if 2 ≤ s.nLeaves.toNat then 2 ^ 255 else 2 ^ 254)

/-- R144: READLEN in CODES or DONE answers the symbol's code length, 0 for a symbol with no code, and changes nothing
else. -/
def Obligations.ReadlenAnswersLength : Prop :=
  ∀ (sym : Sym) (s : State), s.err = false → s.phase = .codes ∨ s.phase = .done →
    ∃ t, exec (.readlen sym) s = .next t ∧ t = { s with result := t.result, busy := false } ∧
      t.result.toNat = (s.codes.lenOf sym).toNat

/-- R145: READCODE in CODES or DONE answers bits 32*wrd+31 .. 32*wrd of the code's value, and changes nothing else. -/
def Obligations.ReadcodeAnswersWord : Prop :=
  ∀ (sym : Sym) (wrd : BitVec 3) (s : State), s.err = false → s.phase = .codes ∨ s.phase = .done →
    ∃ t, exec (.readcode sym wrd) s = .next t ∧ t = { s with result := t.result, busy := false } ∧
      t.result.toNat = (s.codes.valOf sym).toNat / 2 ^ (32 * wrd.toNat) % 2 ^ 32

/-! ### The bit packer -/

/-- R155, R66: ENCODE in CODES of a symbol with a code, with room for its bytes, appends exactly the code's bits to the
stream, most significant first, keeps fewer than 8 bits pending, and adds the length to BITCNT; all else stays. -/
def Obligations.EncodeAppendsCode : Prop :=
  ∀ (sym : Sym) (s : State), s.acc.toNat < 2 ^ s.accCnt.toNat → s.err = false → s.phase = .codes →
    (s.codes.lenOf sym).toNat ≠ 0 → (s.accCnt.toNat + (s.codes.lenOf sym).toNat) / 8 + s.outq.length ≤ 64 →
    ∃ t, exec (.encode sym) s = .next t ∧
      bytesBits t.outq ++ t.pendingBits = bytesBits s.outq ++ s.pendingBits ++ codeString s.codes sym ∧
      t.outq.length = s.outq.length + (s.accCnt.toNat + (s.codes.lenOf sym).toNat) / 8 ∧
      t.accCnt.toNat = (s.accCnt.toNat + (s.codes.lenOf sym).toNat) % 8 ∧ t.acc.toNat < 2 ^ t.accCnt.toNat ∧
      t.bitcnt.toNat = (s.bitcnt.toNat + (s.codes.lenOf sym).toNat) % 2 ^ 64 ∧
      t = { s with outq := t.outq, acc := t.acc, accCnt := t.accCnt, bitcnt := t.bitcnt, busy := false }

/-- R155, R178: ENCODE in CODES of a symbol with no code records UNKNOWN_SYMBOL and changes nothing else (with a queue of at
most 64 bytes it is never held, R98). -/
def Obligations.EncodeUnknownSymbol : Prop :=
  ∀ (sym : Sym) (s : State), s.err = false → s.phase = .codes → s.outq.length ≤ 64 →
    (s.codes.lenOf sym).toNat = 0 →
    exec (.encode sym) s = .next { s with err := true, errcode := .unknownSymbol, busy := false }

/-- R156: FLUSH in CODES with room pushes the pending bits, padded with zero bits at the low end, as one byte, or nothing
when none is pending, and moves to DONE; BITCNT and all else stay. -/
def Obligations.FlushPadsLastByte : Prop :=
  ∀ s : State, s.acc.toNat < 2 ^ s.accCnt.toNat → s.err = false → s.phase = .codes →
    (if s.accCnt.toNat > 0 then 1 else 0) + s.outq.length ≤ 64 →
    ∃ t, exec .flush s = .next t ∧
      (s.accCnt.toNat = 0 → t.outq = s.outq) ∧
      (s.accCnt.toNat ≠ 0 → ∃ b : Byte, t.outq = s.outq ++ [b] ∧ b.toNat = s.acc.toNat * 2 ^ (8 - s.accCnt.toNat)) ∧
      t = { s with outq := t.outq, acc := 0#8, accCnt := 0#3, phase := .done, busy := false }

/-- From R155 (the inference the spec makes in R161): ENCODE gives the same OUTQ, ACC and ACC_CNT as the bit-at-a-time loop. -/
def Obligations.EncodeEqualsBitSerial : Prop :=
  ∀ (sym : Sym) (s t : State), s.acc.toNat < 2 ^ s.accCnt.toNat → s.err = false → s.phase = .codes →
    (s.codes.lenOf sym).toNat ≠ 0 → (s.accCnt.toNat + (s.codes.lenOf sym).toNat) / 8 + s.outq.length ≤ 64 →
    exec (.encode sym) s = .next t →
    serialEncode s sym = (t.acc, t.accCnt.toNat, t.outq)

/-- From R155 and R156 (the inferences the spec makes in R159 and R160): a run of n steps in CODES from an empty stream, then a step that completes FLUSH. ERR is 0
before the FLUSH, so no error comes between: one could only be cleared by leaving CODES. Whatever host accesses, holds and
commands that record no error come between, the bytes pushed are the concatenation of the codes of the symbols ENCODE appended,
in order, padded with zero bits to whole bytes; their number is ceil(total / 8); BITCNT grew by the total modulo 2^64. -/
def Obligations.EncodedStreamOfRun : Prop :=
  ∀ (n : Nat) (s t u : State), s.streamBits = [] → s.acc = 0#8 → during (fun v => v.phase = .codes) n s →
    run n s = some t → t.phase = .codes → t.err = false → t.completing = some .flush → step t = .next u →
    let total := ((gather State.encodedSyms n s).map fun sym => (s.codes.lenOf sym).toNat).sum
    bytesBits u.pushedBytes =
      (gather State.encodedSyms n s).flatMap (codeString s.codes) ++ List.replicate ((8 - total % 8) % 8) false ∧
    u.pushedBytes.length = (total + 7) / 8 ∧ u.bitcnt = s.bitcnt + BitVec.ofNat 64 total ∧ u.phase = .done

/-! ### The whole machine -/

/-- From R27, R34, R125, R140, R155 and R156 (the inference the spec makes in R43): every step keeps the invariants of R43, with what they rest on (the tree BUILD made, the code table GENCODES made,
ERRCODE against ERR, no output before CODES). -/
def Obligations.InvariantKept : Prop := ∀ s t : State, Inv s → step s = .next t → Inv t

/-- From R44 (the inference the spec makes in R43): the invariants hold at reset. -/
def Obligations.InvariantAtReset : Prop := Inv State.reset

/-- R39, R40, R163: every step keeps ACC < 2^ACC_CNT and at most 64 bytes in OUTQ, in every state, reachable or not. -/
def Obligations.PackerBoundsKept : Prop :=
  ∀ s t : State, s.acc.toNat < 2 ^ s.accCnt.toNat → s.outq.length ≤ 64 → step s = .next t →
    t.acc.toNat < 2 ^ t.accCnt.toNat ∧ t.outq.length ≤ 64

/-- From R125, R140, R155 and R156 (the inference the spec makes in R216): two runs from states that look alike, with no reset and no overrun, in which the same command words with the same
latched operands complete in the same order, end in states that look alike: the same FREQ, tree, code table, BITCNT and byte
stream, whatever the interleaving of host reads and whatever the hold delays. -/
def Obligations.RunIsDeterminedByCommands : Prop :=
  ∀ (n m : Nat) (s s' t t' : State), Inv s → Inv s' → s.view = s'.view →
    during (fun u => u.resetNext = false ∧ u.overrunNext = false) n s →
    during (fun u => u.resetNext = false ∧ u.overrunNext = false) m s' →
    run n s = some t → run m s' = some t' →
    gather State.completingWord n s = gather State.completingWord m s' →
    t.view = t'.view
end

