-- ==== Sys2Proof/Laws/State.lean ====
section
/-! SUPPORT. One lemma per field per update of State, each true by rfl, so that no later proof unfolds a record update. -/

namespace Sys2Proof.Machine

/-! ### setFreq -/

@[simp] theorem State.setFreq_busy (s : State) (sym : Sym) (v : Word) : (s.setFreq sym v).busy = s.busy := rfl
@[simp] theorem State.setFreq_err (s : State) (sym : Sym) (v : Word) : (s.setFreq sym v).err = s.err := rfl
@[simp] theorem State.setFreq_errcode (s : State) (sym : Sym) (v : Word) : (s.setFreq sym v).errcode = s.errcode := rfl
@[simp] theorem State.setFreq_phase (s : State) (sym : Sym) (v : Word) : (s.setFreq sym v).phase = s.phase := rfl
@[simp] theorem State.setFreq_acc (s : State) (sym : Sym) (v : Word) : (s.setFreq sym v).acc = s.acc := rfl
@[simp] theorem State.setFreq_accCnt (s : State) (sym : Sym) (v : Word) : (s.setFreq sym v).accCnt = s.accCnt := rfl
@[simp] theorem State.setFreq_arg (s : State) (sym : Sym) (v : Word) : (s.setFreq sym v).arg = s.arg := rfl
@[simp] theorem State.setFreq_result (s : State) (sym : Sym) (v : Word) : (s.setFreq sym v).result = s.result := rfl
@[simp] theorem State.setFreq_pendCmd (s : State) (sym : Sym) (v : Word) : (s.setFreq sym v).pendCmd = s.pendCmd := rfl
@[simp] theorem State.setFreq_pendArg (s : State) (sym : Sym) (v : Word) : (s.setFreq sym v).pendArg = s.pendArg := rfl
@[simp] theorem State.setFreq_freq (s : State) (sym : Sym) (v : Word) : (s.setFreq sym v).freq = s.freq.set sym.toNat v sym.isLt := rfl
@[simp] theorem State.setFreq_arena (s : State) (sym : Sym) (v : Word) : (s.setFreq sym v).arena = s.arena := rfl
@[simp] theorem State.setFreq_root (s : State) (sym : Sym) (v : Word) : (s.setFreq sym v).root = s.root := rfl
@[simp] theorem State.setFreq_nLeaves (s : State) (sym : Sym) (v : Word) : (s.setFreq sym v).nLeaves = s.nLeaves := rfl
@[simp] theorem State.setFreq_codes (s : State) (sym : Sym) (v : Word) : (s.setFreq sym v).codes = s.codes := rfl
@[simp] theorem State.setFreq_heap (s : State) (sym : Sym) (v : Word) : (s.setFreq sym v).heap = s.heap := rfl
@[simp] theorem State.setFreq_heapN (s : State) (sym : Sym) (v : Word) : (s.setFreq sym v).heapN = s.heapN := rfl
@[simp] theorem State.setFreq_outq (s : State) (sym : Sym) (v : Word) : (s.setFreq sym v).outq = s.outq := rfl
@[simp] theorem State.setFreq_bitcnt (s : State) (sym : Sym) (v : Word) : (s.setFreq sym v).bitcnt = s.bitcnt := rfl
@[simp] theorem State.setFreq_schedule (s : State) (sym : Sym) (v : Word) : (s.setFreq sym v).schedule = s.schedule := rfl
@[simp] theorem State.setFreq_rdata (s : State) (sym : Sym) (v : Word) : (s.setFreq sym v).rdata = s.rdata := rfl
@[simp] theorem State.setFreq_hostOut (s : State) (sym : Sym) (v : Word) : (s.setFreq sym v).hostOut = s.hostOut := rfl
@[simp] theorem State.setFreq_draws (s : State) (sym : Sym) (v : Word) : (s.setFreq sym v).draws = s.draws := rfl

/-! ### finish -/

@[simp] theorem State.finish_busy (s : State) : s.finish.busy = false := rfl
@[simp] theorem State.finish_err (s : State) : s.finish.err = s.err := rfl
@[simp] theorem State.finish_errcode (s : State) : s.finish.errcode = s.errcode := rfl
@[simp] theorem State.finish_phase (s : State) : s.finish.phase = s.phase := rfl
@[simp] theorem State.finish_acc (s : State) : s.finish.acc = s.acc := rfl
@[simp] theorem State.finish_accCnt (s : State) : s.finish.accCnt = s.accCnt := rfl
@[simp] theorem State.finish_arg (s : State) : s.finish.arg = s.arg := rfl
@[simp] theorem State.finish_result (s : State) : s.finish.result = s.result := rfl
@[simp] theorem State.finish_pendCmd (s : State) : s.finish.pendCmd = s.pendCmd := rfl
@[simp] theorem State.finish_pendArg (s : State) : s.finish.pendArg = s.pendArg := rfl
@[simp] theorem State.finish_freq (s : State) : s.finish.freq = s.freq := rfl
@[simp] theorem State.finish_arena (s : State) : s.finish.arena = s.arena := rfl
@[simp] theorem State.finish_root (s : State) : s.finish.root = s.root := rfl
@[simp] theorem State.finish_nLeaves (s : State) : s.finish.nLeaves = s.nLeaves := rfl
@[simp] theorem State.finish_codes (s : State) : s.finish.codes = s.codes := rfl
@[simp] theorem State.finish_heap (s : State) : s.finish.heap = s.heap := rfl
@[simp] theorem State.finish_heapN (s : State) : s.finish.heapN = s.heapN := rfl
@[simp] theorem State.finish_outq (s : State) : s.finish.outq = s.outq := rfl
@[simp] theorem State.finish_bitcnt (s : State) : s.finish.bitcnt = s.bitcnt := rfl
@[simp] theorem State.finish_schedule (s : State) : s.finish.schedule = s.schedule := rfl
@[simp] theorem State.finish_rdata (s : State) : s.finish.rdata = s.rdata := rfl
@[simp] theorem State.finish_hostOut (s : State) : s.finish.hostOut = s.hostOut := rfl
@[simp] theorem State.finish_draws (s : State) : s.finish.draws = s.draws := rfl

/-! ### raise -/

@[simp] theorem State.raise_busy (s : State) (c : ErrCode) : (s.raise c).busy = false := rfl
@[simp] theorem State.raise_err (s : State) (c : ErrCode) : (s.raise c).err = true := rfl
@[simp] theorem State.raise_errcode (s : State) (c : ErrCode) : (s.raise c).errcode = c := rfl
@[simp] theorem State.raise_phase (s : State) (c : ErrCode) : (s.raise c).phase = s.phase := rfl
@[simp] theorem State.raise_acc (s : State) (c : ErrCode) : (s.raise c).acc = s.acc := rfl
@[simp] theorem State.raise_accCnt (s : State) (c : ErrCode) : (s.raise c).accCnt = s.accCnt := rfl
@[simp] theorem State.raise_arg (s : State) (c : ErrCode) : (s.raise c).arg = s.arg := rfl
@[simp] theorem State.raise_result (s : State) (c : ErrCode) : (s.raise c).result = s.result := rfl
@[simp] theorem State.raise_pendCmd (s : State) (c : ErrCode) : (s.raise c).pendCmd = s.pendCmd := rfl
@[simp] theorem State.raise_pendArg (s : State) (c : ErrCode) : (s.raise c).pendArg = s.pendArg := rfl
@[simp] theorem State.raise_freq (s : State) (c : ErrCode) : (s.raise c).freq = s.freq := rfl
@[simp] theorem State.raise_arena (s : State) (c : ErrCode) : (s.raise c).arena = s.arena := rfl
@[simp] theorem State.raise_root (s : State) (c : ErrCode) : (s.raise c).root = s.root := rfl
@[simp] theorem State.raise_nLeaves (s : State) (c : ErrCode) : (s.raise c).nLeaves = s.nLeaves := rfl
@[simp] theorem State.raise_codes (s : State) (c : ErrCode) : (s.raise c).codes = s.codes := rfl
@[simp] theorem State.raise_heap (s : State) (c : ErrCode) : (s.raise c).heap = s.heap := rfl
@[simp] theorem State.raise_heapN (s : State) (c : ErrCode) : (s.raise c).heapN = s.heapN := rfl
@[simp] theorem State.raise_outq (s : State) (c : ErrCode) : (s.raise c).outq = s.outq := rfl
@[simp] theorem State.raise_bitcnt (s : State) (c : ErrCode) : (s.raise c).bitcnt = s.bitcnt := rfl
@[simp] theorem State.raise_schedule (s : State) (c : ErrCode) : (s.raise c).schedule = s.schedule := rfl
@[simp] theorem State.raise_rdata (s : State) (c : ErrCode) : (s.raise c).rdata = s.rdata := rfl
@[simp] theorem State.raise_hostOut (s : State) (c : ErrCode) : (s.raise c).hostOut = s.hostOut := rfl
@[simp] theorem State.raise_draws (s : State) (c : ErrCode) : (s.raise c).draws = s.draws := rfl

/-! ### initRun -/

@[simp] theorem State.initRun_busy (s : State) : s.initRun.busy = false := rfl
@[simp] theorem State.initRun_err (s : State) : s.initRun.err = false := rfl
@[simp] theorem State.initRun_errcode (s : State) : s.initRun.errcode = .noError := rfl
@[simp] theorem State.initRun_phase (s : State) : s.initRun.phase = .load := rfl
@[simp] theorem State.initRun_acc (s : State) : s.initRun.acc = 0#8 := rfl
@[simp] theorem State.initRun_accCnt (s : State) : s.initRun.accCnt = 0#3 := rfl
@[simp] theorem State.initRun_arg (s : State) : s.initRun.arg = 0#32 := rfl
@[simp] theorem State.initRun_result (s : State) : s.initRun.result = 0#32 := rfl
@[simp] theorem State.initRun_pendCmd (s : State) : s.initRun.pendCmd = Config.freePendCmd s.draws := rfl
@[simp] theorem State.initRun_pendArg (s : State) : s.initRun.pendArg = Config.freePendArg s.draws := rfl
@[simp] theorem State.initRun_freq (s : State) : s.initRun.freq = Vector.replicate 256 0#32 := rfl
@[simp] theorem State.initRun_arena (s : State) : s.initRun.arena = ⟨Config.freeWeights s.draws, Config.freeLefts s.draws, Config.freeRights s.draws⟩ := rfl
@[simp] theorem State.initRun_root (s : State) : s.initRun.root = 0#9 := rfl
@[simp] theorem State.initRun_nLeaves (s : State) : s.initRun.nLeaves = 0#9 := rfl
@[simp] theorem State.initRun_codes (s : State) : s.initRun.codes = .empty := rfl
@[simp] theorem State.initRun_heap (s : State) : s.initRun.heap = Config.freeHeap s.draws := rfl
@[simp] theorem State.initRun_heapN (s : State) : s.initRun.heapN = Config.freeHeapN s.draws := rfl
@[simp] theorem State.initRun_outq (s : State) : s.initRun.outq = [] := rfl
@[simp] theorem State.initRun_bitcnt (s : State) : s.initRun.bitcnt = 0#64 := rfl
@[simp] theorem State.initRun_schedule (s : State) : s.initRun.schedule = s.schedule := rfl
@[simp] theorem State.initRun_rdata (s : State) : s.initRun.rdata = s.rdata := rfl
@[simp] theorem State.initRun_hostOut (s : State) : s.initRun.hostOut = [] := rfl
@[simp] theorem State.initRun_draws (s : State) : s.initRun.draws = s.draws + 1 := rfl

/-! ### pushAll -/

@[simp] theorem State.pushAll_busy (s : State) (bs : List Byte) : (s.pushAll bs).busy = s.busy := rfl
@[simp] theorem State.pushAll_err (s : State) (bs : List Byte) : (s.pushAll bs).err = s.err := rfl
@[simp] theorem State.pushAll_errcode (s : State) (bs : List Byte) : (s.pushAll bs).errcode = s.errcode := rfl
@[simp] theorem State.pushAll_phase (s : State) (bs : List Byte) : (s.pushAll bs).phase = s.phase := rfl
@[simp] theorem State.pushAll_acc (s : State) (bs : List Byte) : (s.pushAll bs).acc = s.acc := rfl
@[simp] theorem State.pushAll_accCnt (s : State) (bs : List Byte) : (s.pushAll bs).accCnt = s.accCnt := rfl
@[simp] theorem State.pushAll_arg (s : State) (bs : List Byte) : (s.pushAll bs).arg = s.arg := rfl
@[simp] theorem State.pushAll_result (s : State) (bs : List Byte) : (s.pushAll bs).result = s.result := rfl
@[simp] theorem State.pushAll_pendCmd (s : State) (bs : List Byte) : (s.pushAll bs).pendCmd = s.pendCmd := rfl
@[simp] theorem State.pushAll_pendArg (s : State) (bs : List Byte) : (s.pushAll bs).pendArg = s.pendArg := rfl
@[simp] theorem State.pushAll_freq (s : State) (bs : List Byte) : (s.pushAll bs).freq = s.freq := rfl
@[simp] theorem State.pushAll_arena (s : State) (bs : List Byte) : (s.pushAll bs).arena = s.arena := rfl
@[simp] theorem State.pushAll_root (s : State) (bs : List Byte) : (s.pushAll bs).root = s.root := rfl
@[simp] theorem State.pushAll_nLeaves (s : State) (bs : List Byte) : (s.pushAll bs).nLeaves = s.nLeaves := rfl
@[simp] theorem State.pushAll_codes (s : State) (bs : List Byte) : (s.pushAll bs).codes = s.codes := rfl
@[simp] theorem State.pushAll_heap (s : State) (bs : List Byte) : (s.pushAll bs).heap = s.heap := rfl
@[simp] theorem State.pushAll_heapN (s : State) (bs : List Byte) : (s.pushAll bs).heapN = s.heapN := rfl
@[simp] theorem State.pushAll_outq (s : State) (bs : List Byte) : (s.pushAll bs).outq = s.outq ++ bs := rfl
@[simp] theorem State.pushAll_bitcnt (s : State) (bs : List Byte) : (s.pushAll bs).bitcnt = s.bitcnt := rfl
@[simp] theorem State.pushAll_schedule (s : State) (bs : List Byte) : (s.pushAll bs).schedule = s.schedule := rfl
@[simp] theorem State.pushAll_rdata (s : State) (bs : List Byte) : (s.pushAll bs).rdata = s.rdata := rfl
@[simp] theorem State.pushAll_hostOut (s : State) (bs : List Byte) : (s.pushAll bs).hostOut = s.hostOut := rfl
@[simp] theorem State.pushAll_draws (s : State) (bs : List Byte) : (s.pushAll bs).draws = s.draws := rfl

/-! ### issue -/

@[simp] theorem State.issue_busy (s : State) (w : Word) : (s.issue w).busy = true := rfl
@[simp] theorem State.issue_err (s : State) (w : Word) : (s.issue w).err = s.err := rfl
@[simp] theorem State.issue_errcode (s : State) (w : Word) : (s.issue w).errcode = s.errcode := rfl
@[simp] theorem State.issue_phase (s : State) (w : Word) : (s.issue w).phase = s.phase := rfl
@[simp] theorem State.issue_acc (s : State) (w : Word) : (s.issue w).acc = s.acc := rfl
@[simp] theorem State.issue_accCnt (s : State) (w : Word) : (s.issue w).accCnt = s.accCnt := rfl
@[simp] theorem State.issue_arg (s : State) (w : Word) : (s.issue w).arg = s.arg := rfl
@[simp] theorem State.issue_result (s : State) (w : Word) : (s.issue w).result = s.result := rfl
@[simp] theorem State.issue_pendCmd (s : State) (w : Word) : (s.issue w).pendCmd = w := rfl
@[simp] theorem State.issue_pendArg (s : State) (w : Word) : (s.issue w).pendArg = s.arg := rfl
@[simp] theorem State.issue_freq (s : State) (w : Word) : (s.issue w).freq = s.freq := rfl
@[simp] theorem State.issue_arena (s : State) (w : Word) : (s.issue w).arena = s.arena := rfl
@[simp] theorem State.issue_root (s : State) (w : Word) : (s.issue w).root = s.root := rfl
@[simp] theorem State.issue_nLeaves (s : State) (w : Word) : (s.issue w).nLeaves = s.nLeaves := rfl
@[simp] theorem State.issue_codes (s : State) (w : Word) : (s.issue w).codes = s.codes := rfl
@[simp] theorem State.issue_heap (s : State) (w : Word) : (s.issue w).heap = s.heap := rfl
@[simp] theorem State.issue_heapN (s : State) (w : Word) : (s.issue w).heapN = s.heapN := rfl
@[simp] theorem State.issue_outq (s : State) (w : Word) : (s.issue w).outq = s.outq := rfl
@[simp] theorem State.issue_bitcnt (s : State) (w : Word) : (s.issue w).bitcnt = s.bitcnt := rfl
@[simp] theorem State.issue_schedule (s : State) (w : Word) : (s.issue w).schedule = s.schedule := rfl
@[simp] theorem State.issue_rdata (s : State) (w : Word) : (s.issue w).rdata = s.rdata := rfl
@[simp] theorem State.issue_hostOut (s : State) (w : Word) : (s.issue w).hostOut = s.hostOut := rfl
@[simp] theorem State.issue_draws (s : State) (w : Word) : (s.issue w).draws = s.draws := rfl

/-! ### pop and overrun, by their cases -/

@[simp] theorem State.pop_busy (s : State) : s.pop.busy = s.busy := by
  unfold State.pop; split <;> rfl
@[simp] theorem State.pop_err (s : State) : s.pop.err = s.err := by
  unfold State.pop; split <;> rfl
@[simp] theorem State.pop_errcode (s : State) : s.pop.errcode = s.errcode := by
  unfold State.pop; split <;> rfl
@[simp] theorem State.pop_phase (s : State) : s.pop.phase = s.phase := by
  unfold State.pop; split <;> rfl
@[simp] theorem State.pop_acc (s : State) : s.pop.acc = s.acc := by
  unfold State.pop; split <;> rfl
@[simp] theorem State.pop_accCnt (s : State) : s.pop.accCnt = s.accCnt := by
  unfold State.pop; split <;> rfl
@[simp] theorem State.pop_arg (s : State) : s.pop.arg = s.arg := by
  unfold State.pop; split <;> rfl
@[simp] theorem State.pop_result (s : State) : s.pop.result = s.result := by
  unfold State.pop; split <;> rfl
@[simp] theorem State.pop_pendCmd (s : State) : s.pop.pendCmd = s.pendCmd := by
  unfold State.pop; split <;> rfl
@[simp] theorem State.pop_pendArg (s : State) : s.pop.pendArg = s.pendArg := by
  unfold State.pop; split <;> rfl
@[simp] theorem State.pop_freq (s : State) : s.pop.freq = s.freq := by
  unfold State.pop; split <;> rfl
@[simp] theorem State.pop_arena (s : State) : s.pop.arena = s.arena := by
  unfold State.pop; split <;> rfl
@[simp] theorem State.pop_root (s : State) : s.pop.root = s.root := by
  unfold State.pop; split <;> rfl
@[simp] theorem State.pop_nLeaves (s : State) : s.pop.nLeaves = s.nLeaves := by
  unfold State.pop; split <;> rfl
@[simp] theorem State.pop_codes (s : State) : s.pop.codes = s.codes := by
  unfold State.pop; split <;> rfl
@[simp] theorem State.pop_heap (s : State) : s.pop.heap = s.heap := by
  unfold State.pop; split <;> rfl
@[simp] theorem State.pop_heapN (s : State) : s.pop.heapN = s.heapN := by
  unfold State.pop; split <;> rfl
@[simp] theorem State.pop_bitcnt (s : State) : s.pop.bitcnt = s.bitcnt := by
  unfold State.pop; split <;> rfl
@[simp] theorem State.pop_schedule (s : State) : s.pop.schedule = s.schedule := by
  unfold State.pop; split <;> rfl
@[simp] theorem State.pop_rdata (s : State) : s.pop.rdata = s.rdata := by
  unfold State.pop; split <;> rfl
@[simp] theorem State.pop_draws (s : State) : s.pop.draws = s.draws := by
  unfold State.pop; split <;> rfl
@[simp] theorem State.pop_outq (s : State) : s.pop.outq = s.outq.tail := by
  unfold State.pop; split <;> simp [*]
@[simp] theorem State.pop_hostOut (s : State) : s.pop.hostOut = s.hostOut ++ s.outq.head?.toList := by
  unfold State.pop; split <;> simp [*]
@[simp] theorem State.overrun_phase (s : State) : s.overrun.phase = s.phase := by
  unfold State.overrun; split <;> rfl
@[simp] theorem State.overrun_acc (s : State) : s.overrun.acc = s.acc := by
  unfold State.overrun; split <;> rfl
@[simp] theorem State.overrun_accCnt (s : State) : s.overrun.accCnt = s.accCnt := by
  unfold State.overrun; split <;> rfl
@[simp] theorem State.overrun_arg (s : State) : s.overrun.arg = s.arg := by
  unfold State.overrun; split <;> rfl
@[simp] theorem State.overrun_result (s : State) : s.overrun.result = s.result := by
  unfold State.overrun; split <;> rfl
@[simp] theorem State.overrun_pendCmd (s : State) : s.overrun.pendCmd = s.pendCmd := by
  unfold State.overrun; split <;> rfl
@[simp] theorem State.overrun_pendArg (s : State) : s.overrun.pendArg = s.pendArg := by
  unfold State.overrun; split <;> rfl
@[simp] theorem State.overrun_freq (s : State) : s.overrun.freq = s.freq := by
  unfold State.overrun; split <;> rfl
@[simp] theorem State.overrun_arena (s : State) : s.overrun.arena = s.arena := by
  unfold State.overrun; split <;> rfl
@[simp] theorem State.overrun_root (s : State) : s.overrun.root = s.root := by
  unfold State.overrun; split <;> rfl
@[simp] theorem State.overrun_nLeaves (s : State) : s.overrun.nLeaves = s.nLeaves := by
  unfold State.overrun; split <;> rfl
@[simp] theorem State.overrun_codes (s : State) : s.overrun.codes = s.codes := by
  unfold State.overrun; split <;> rfl
@[simp] theorem State.overrun_heap (s : State) : s.overrun.heap = s.heap := by
  unfold State.overrun; split <;> rfl
@[simp] theorem State.overrun_heapN (s : State) : s.overrun.heapN = s.heapN := by
  unfold State.overrun; split <;> rfl
@[simp] theorem State.overrun_outq (s : State) : s.overrun.outq = s.outq := by
  unfold State.overrun; split <;> rfl
@[simp] theorem State.overrun_bitcnt (s : State) : s.overrun.bitcnt = s.bitcnt := by
  unfold State.overrun; split <;> rfl
@[simp] theorem State.overrun_schedule (s : State) : s.overrun.schedule = s.schedule := by
  unfold State.overrun; split <;> rfl
@[simp] theorem State.overrun_rdata (s : State) : s.overrun.rdata = s.rdata := by
  unfold State.overrun; split <;> rfl
@[simp] theorem State.overrun_hostOut (s : State) : s.overrun.hostOut = s.hostOut := by
  unfold State.overrun; split <;> rfl
@[simp] theorem State.overrun_draws (s : State) : s.overrun.draws = s.draws := by
  unfold State.overrun; split <;> rfl
@[simp] theorem State.overrun_busy (s : State) : s.overrun.busy = false := by
  unfold State.overrun; split <;> rfl
@[simp] theorem State.overrun_err (s : State) : s.overrun.err = true := by
  unfold State.overrun; split <;> simp [*]
theorem State.overrun_errcode (s : State) :
    s.overrun.errcode = if s.err then s.errcode else .cmdOverrun := by
  unfold State.overrun; split <;> simp [*]

end Sys2Proof.Machine
end

