-- ==== Sys2Proof/Laws/Exec.lean ====
section
/-! SUPPORT. What a command and a step can do, each said once: the cases of the shared command step (spec/40_control.md
R102), of a successful perform of each command, and of one event of the run (R90). -/

namespace Sys2Proof.Machine

/-- The body of each command, by instruction. -/
def performOf : Instr → State → Except ErrCode State
  | .nop => performNop
  | .clear => performClear
  | .count sym => performCount sym
  | .setfreq sym => performSetfreq sym
  | .readfreq sym => performReadfreq sym
  | .build => performBuild
  | .gencodes => performGencodes
  | .readlen sym => performReadlen sym
  | .readcode sym wrd => performReadcode sym wrd
  | .readnode node fld => performReadnode node fld
  | .encode sym => performEncode sym
  | .flush => performFlush
  | .abort => performAbort

/-- Every meaning is the shared command step over its body. -/
theorem exec_runCommand (i : Instr) (s : State) : exec i s = .next (runCommand i (performOf i) s) := by
  cases i <;> rfl

/-- The cases of the shared command step (R102, R98): held, ignored, out of phase, its own error, or done. -/
theorem runCommand_cases (i : Instr) (p : State → Except ErrCode State) (s : State) :
    (s.held i = true ∧ runCommand i p s = s) ∨
    (s.held i = false ∧ s.err = true ∧ performedUnderError i = false ∧ runCommand i p s = s.finish) ∨
    (∃ c, s.held i = false ∧ (s.err = false ∨ performedUnderError i = true) ∧ phaseError i s.phase = some c ∧
      runCommand i p s = s.raise c) ∨
    (∃ c, s.held i = false ∧ (s.err = false ∨ performedUnderError i = true) ∧ phaseError i s.phase = none ∧
      p s = .error c ∧ runCommand i p s = s.raise c) ∨
    (∃ t, s.held i = false ∧ (s.err = false ∨ performedUnderError i = true) ∧ phaseError i s.phase = none ∧
      p s = .ok t ∧ runCommand i p s = t.finish) := by
  unfold runCommand
  cases hh : s.held i
  · cases he : s.err <;> cases hu : performedUnderError i <;> cases hp : phaseError i s.phase <;> cases hq : p s <;>
      simp_all
  · simp

/-- A command that is neither held nor ignored nor out of phase does what its body says (R102). -/
theorem runCommand_performs {i : Instr} {p : State → Except ErrCode State} {s : State} (hh : s.held i = false)
    (he : s.err = false) (hp : phaseError i s.phase = none) :
    runCommand i p s = match p s with | .error c => s.raise c | .ok t => t.finish := by
  cases hq : p s <;> simp [runCommand, hh, he, hp, hq]

/-- Only ENCODE and FLUSH are ever held (R98). -/
theorem held_eq_false_of_need {s : State} {i : Instr} (h : s.need i = none) : s.held i = false := by
  simp [State.held, h]

/-- A command is held only with ERR = 0 and in CODES (R98). -/
theorem held_gate {s : State} {i : Instr} (h : s.held i = true) : s.err = false ∧ s.phase = .codes := by
  simp [State.held] at h; exact ⟨h.1.1, h.1.2⟩

/-- The cases of one event (R90): the block's turn, a reset, a host read, a host write. -/
theorem step_cases {s t : State} (h : step s = .next t) :
    (s.schedule = [] ∧ blockStep s = .next t) ∨
    (∃ rest, s.schedule = .block :: rest ∧ blockStep { s with schedule := rest } = .next t) ∨
    (∃ rest, s.schedule = .reset :: rest ∧ t = resetEvent { s with schedule := rest }) ∨
    (∃ addr size rest, s.schedule = .read addr size :: rest ∧
      hostRead addr size { s with schedule := rest } = .next t) ∨
    (∃ addr size data rest, s.schedule = .write addr size data :: rest ∧
      hostWrite addr size data { s with schedule := rest } = .next t) := by
  unfold step runEvent at h
  split at h <;> simp_all

/-- The cases of the block's turn (R102): idle, an illegal word, or a decoded command. -/
theorem blockStep_cases {s t : State} (h : blockStep s = .next t) :
    (s.busy = false ∧ t = s) ∨
    (∃ e, s.busy = true ∧ decode s.pendCmd = .error e ∧ t = runIllegal s) ∨
    (∃ i, s.busy = true ∧ decode s.pendCmd = .ok i ∧ t = runCommand i (performOf i) s) := by
  unfold blockStep at h
  split at h
  · split at h
    · rename_i i hd
      rw [exec_runCommand] at h
      exact .inr (.inr ⟨i, ‹_›, hd, by simpa using h.symm⟩)
    · rename_i e hd
      exact .inr (.inl ⟨e, ‹_›, hd, by simpa using h.symm⟩)
  · exact .inl ⟨by simp_all, by simpa using h.symm⟩

/-- A host read that answers changes nothing but the bus answer, and OUTDATA's pop (R55). -/
theorem hostRead_next {addr : Nat} {size : Size} {s t : State} (h : hostRead addr size s = .next t) :
    inWindow addr = true ∧ t = s.mmioRead (regIndex addr) := by
  unfold hostRead at h
  split at h
  · exact ⟨‹_›, by simpa using h.symm⟩
  · simp at h

/-- A host write that answers: the register's write rule on the bus word, which is a drawn one when the write is narrow
(R52, R55). -/
theorem hostWrite_next {addr : Nat} {size : Size} {data : Word} {s t : State}
    (h : hostWrite addr size data s = .next t) :
    inWindow addr = true ∧
      ((size = .word ∧ t = s.mmioWrite (regIndex addr) data) ∨
        (size ≠ .word ∧
          t = { s with draws := s.draws + 1 }.mmioWrite (regIndex addr) (Config.freeBusWord s.draws))) := by
  unfold hostWrite at h
  split at h
  · refine ⟨‹_›, ?_⟩
    cases size <;> simp_all
  · simp at h

/-- What a register write can do (R55): overrun, issue, store ARG, or nothing. -/
theorem mmioWrite_cases (s : State) (idx : BitVec 4) (w : Word) :
    (idx = 3#4 ∧ s.busy = true ∧ s.mmioWrite idx w = s.overrun) ∨
    (idx = 3#4 ∧ s.busy = false ∧ s.mmioWrite idx w = s.issue w) ∨
    (idx = 4#4 ∧ s.mmioWrite idx w = { s with arg := w }) ∨
    (idx ≠ 3#4 ∧ idx ≠ 4#4 ∧ s.mmioWrite idx w = s) := by
  by_cases h3 : idx = 3#4
  · subst h3; cases hb : s.busy <;> simp [State.mmioWrite, hb]
  by_cases h4 : idx = 4#4
  · subst h4; simp [State.mmioWrite]
  · refine .inr (.inr (.inr ⟨h3, h4, ?_⟩))
    unfold State.mmioWrite
    split
    · rename_i e; exact absurd (BitVec.eq_of_toNat_eq e) h3
    · rename_i e; exact absurd (BitVec.eq_of_toNat_eq e) h4
    · rfl

/-- A COUNT that is performed (R111). -/
theorem performCount_ok {sym : Sym} {s t : State} (h : performCount sym s = .ok t) :
    freqOf s.freq sym ≠ 0xFFFFFFFF#32 ∧ t = s.setFreq sym (freqOf s.freq sym + 1#32) := by
  unfold performCount at h
  split at h <;> simp_all

/-- A BUILD that is performed (R125). -/
theorem performBuild_ok {s t : State} (h : performBuild s = .ok t) :
    (presentSyms s.freq).length ≠ 0 ∧
      t = { s with
        arena := (buildTree s.freq s.arena s.heap).1, root := (buildTree s.freq s.arena s.heap).2
        nLeaves := BitVec.ofNat 9 (presentSyms s.freq).length, phase := .tree
        heap := Config.freeHeap s.draws, heapN := Config.freeHeapN s.draws, draws := s.draws + 1 } := by
  unfold performBuild at h
  simp only at h
  split at h
  · simp at h
  · exact ⟨‹_›, by simpa using h.symm⟩

/-- A READNODE that is performed (R131). -/
theorem performReadnode_ok {node : NodeId} {fld : BitVec 2} {s t : State} (h : performReadnode node fld s = .ok t) :
    ∃ w, s.nodeWord node fld = some w ∧ t = { s with result := w } := by
  unfold performReadnode at h
  split at h
  · rename_i w hw; exact ⟨w, hw, by simpa using h.symm⟩
  · simp at h

/-- An ENCODE that is performed (R155): what it may write. -/
theorem performEncode_ok {sym : Sym} {s t : State} (h : performEncode sym s = .ok t) :
    (s.codes.lenOf sym).toNat ≠ 0 ∧
      t = { s with
        outq := s.outq ++ wholeBytes (packBits s.acc (s.codes.lenOf sym).toNat (s.codes.valOf sym))
          (s.accCnt.toNat + (s.codes.lenOf sym).toNat)
        acc := t.acc, accCnt := t.accCnt, bitcnt := t.bitcnt } := by
  unfold performEncode at h
  simp only at h
  split at h
  · simp at h
  · refine ⟨‹_›, ?_⟩
    have := Except.ok.inj h
    subst this
    rfl

end Sys2Proof.Machine
end

