-- ==== Sys2Proof/Laws/PerInstr.lean ====
section
/-! SUPPORT. The family TableRow: the word of every command lies in its row of the opcode map (spec/30_encoding.md R78). -/

namespace Sys2Proof.Laws.TableRow

/-- The mask of a command's row (R78). -/
def mask : Instr → Word
  | .nop => 0xFFFFFFFF#32
  | .clear => 0xFFFFFFFF#32
  | .count _ => 0xFFFFFF00#32
  | .setfreq _ => 0xFFFFFF00#32
  | .readfreq _ => 0xFFFFFF00#32
  | .build => 0xFFFFFFFF#32
  | .gencodes => 0xFFFFFFFF#32
  | .readlen _ => 0xFFFFFF00#32
  | .readcode _ _ => 0xFFFFF800#32
  | .readnode _ _ => 0xFFFFF800#32
  | .encode _ => 0xFFFFFF00#32
  | .flush => 0xFFFFFFFF#32
  | .abort => 0xFFFFFFFF#32

/-- The match of a command's row (R78). -/
def pattern : Instr → Word
  | .nop => 0x00000000#32
  | .clear => 0x01000000#32
  | .count _ => 0x02000000#32
  | .setfreq _ => 0x03000000#32
  | .readfreq _ => 0x04000000#32
  | .build => 0x05000000#32
  | .gencodes => 0x06000000#32
  | .readlen _ => 0x07000000#32
  | .readcode _ _ => 0x08000000#32
  | .readnode _ _ => 0x09000000#32
  | .encode _ => 0x0A000000#32
  | .flush => 0x0B000000#32
  | .abort => 0x0C000000#32

/-- R78: (w AND mask) = match for the word of the command. -/
def Statement (i : Instr) : Prop := encode i &&& mask i = pattern i

/-- Bits 8 to 31 of a word of format S do not depend on the symbol. -/
theorem encodeS_row (opc : BitVec 8) (sym : Sym) : encodeS opc sym &&& 0xFFFFFF00#32 = opc ++ 0#24 := by
  have h : ∀ opc sym : BitVec 8, (opc ++ 0#16 ++ sym : Word) &&& 0xFFFFFF00#32 = opc ++ 0#24 := by
    intro opc sym
    apply BitVec.eq_of_getLsbD_eq
    intro i hi
    have hm : ∀ j < 32, (0xFFFFFF00#32).getLsbD j = decide (8 ≤ j) := by decide
    simp only [BitVec.getLsbD_and, BitVec.getLsbD_append, hm i hi]
    by_cases h8 : i < 8
    · simp [h8, show ¬ 8 ≤ i by omega, show i < 24 by omega]
    · by_cases h24 : i < 24
      · simp [h8, show 8 ≤ i by omega, h24, show i - 8 < 16 by omega]
      · simp [h8, show 8 ≤ i by omega, h24, show ¬ i - 8 < 16 by omega, show i - 8 - 16 = i - 24 by omega]
  exact h opc sym

theorem nop : Statement .nop := by unfold Statement; decide
theorem clear : Statement .clear := by unfold Statement; decide
theorem count (sym : Sym) : Statement (.count sym) := encodeS_row 2#8 sym
theorem setfreq (sym : Sym) : Statement (.setfreq sym) := encodeS_row 3#8 sym
theorem readfreq (sym : Sym) : Statement (.readfreq sym) := encodeS_row 4#8 sym
theorem build : Statement .build := by unfold Statement; decide
theorem gencodes : Statement .gencodes := by unfold Statement; decide
theorem readlen (sym : Sym) : Statement (.readlen sym) := encodeS_row 7#8 sym

theorem readcode (sym : Sym) (wrd : BitVec 3) : Statement (.readcode sym wrd) := by
  show (0x08#8 ++ 0#13 ++ wrd ++ sym : Word) &&& 0xFFFFF800#32 = 0x08000000#32
  apply BitVec.eq_of_getLsbD_eq
  intro i hi
  have hm : ∀ j < 32, (0xFFFFF800#32).getLsbD j = decide (11 ≤ j) := by decide
  have hp : ∀ j < 32, 11 ≤ j → (0x08000000#32).getLsbD j = (!decide (j - 11 < 13) && (8#8).getLsbD (j - 11 - 13)) := by decide
  have hz : ∀ j < 11, (0x08000000#32).getLsbD j = false := by decide
  simp only [BitVec.getLsbD_and, BitVec.getLsbD_append, hm i hi]
  by_cases h : 11 ≤ i
  · rw [hp i hi h]
    simp [h, show ¬ i < 8 by omega, show ¬ i - 8 < 3 by omega, show i - 8 - 3 = i - 11 by omega]
  · simp [h, hz i (by omega)]

theorem readnode (node : NodeId) (fld : BitVec 2) : Statement (.readnode node fld) := by
  show (0x09#8 ++ 0#13 ++ fld ++ node : Word) &&& 0xFFFFF800#32 = 0x09000000#32
  apply BitVec.eq_of_getLsbD_eq
  intro i hi
  have hm : ∀ j < 32, (0xFFFFF800#32).getLsbD j = decide (11 ≤ j) := by decide
  have hp : ∀ j < 32, 11 ≤ j → (0x09000000#32).getLsbD j = (!decide (j - 11 < 13) && (9#8).getLsbD (j - 11 - 13)) := by decide
  have hz : ∀ j < 11, (0x09000000#32).getLsbD j = false := by decide
  simp only [BitVec.getLsbD_and, BitVec.getLsbD_append, hm i hi]
  by_cases h : 11 ≤ i
  · rw [hp i hi h]
    simp [h, show ¬ i < 9 by omega, show ¬ i - 9 < 2 by omega, show i - 9 - 2 = i - 11 by omega]
  · simp [h, hz i (by omega)]

theorem encode (sym : Sym) : Statement (.encode sym) := encodeS_row 0x0A#8 sym
theorem flush : Statement .flush := by unfold Statement; decide
theorem abort : Statement .abort := by unfold Statement; decide

end Sys2Proof.Laws.TableRow
end

