-- ==== Sys2Proof/Laws/Runs.lean ====
section
/-! SUPPORT. What an event can do, by kind, in the words of Safety.lean (spec/40_control.md R90), the shape of runs, and the
packer's small facts (spec/44_packer.md R155). -/

namespace Sys2Proof.Machine

/-- The hold does not look at the schedule (R98). -/
@[simp] theorem held_schedule (s : State) (e : List Event) (i : Instr) : State.held { s with schedule := e } i = s.held i := by
  cases i <;> rfl

/-- What completes at a step of the block: the instruction PEND_CMD decodes to, unless it is held (R93, R98). -/
theorem completing_eq {s : State} {i : Instr} (hb : s.blockTurn = true) (hu : s.busy = true)
    (hd : decode s.pendCmd = .ok i) (hh : s.held i = false) : s.completing = some i := by
  simp [State.completing, hb, hu, hd, hh]

/-- Nothing completes when it is not the block's turn. -/
theorem completing_eq_none {s : State} (hb : s.blockTurn = false) : s.completing = none := by
  simp [State.completing, hb]

/-- An instruction completes only on the block's turn, with BUSY = 1, when PEND_CMD decodes to it and it is not held. -/
theorem of_completing {s : State} {i : Instr} (h : s.completing = some i) :
    s.blockTurn = true ∧ s.busy = true ∧ decode s.pendCmd = .ok i ∧ s.held i = false := by
  unfold State.completing at h
  split at h
  · split at h
    · split at h <;> simp_all
    · simp at h
  · simp at h

/-- One event, by kind (R90): the block's turn, a reset, a register read, or a register write, each on the state with the
event taken off the schedule (and, for a narrow write, one more value drawn). -/
theorem step_kinds {s t : State} (h : step s = .next t) :
    (s.blockTurn = true ∧ s.resetNext = false ∧ s.overrunNext = false ∧
      blockStep { s with schedule := s.schedule.tail } = .next t) ∨
    (s.blockTurn = false ∧ s.resetNext = true ∧ t = resetEvent { s with schedule := s.schedule.tail }) ∨
    (s.blockTurn = false ∧ s.resetNext = false ∧
      ∃ idx, t = State.mmioRead { s with schedule := s.schedule.tail } idx) ∨
    (s.blockTurn = false ∧ s.resetNext = false ∧
      ∃ idx d w, t = State.mmioWrite { s with schedule := s.schedule.tail, draws := d } idx w) := by
  rcases step_cases h with ⟨hs, h⟩ | ⟨r, hs, h⟩ | ⟨r, hs, h⟩ | ⟨a, z, r, hs, h⟩ | ⟨a, z, d, r, hs, h⟩
  · refine .inl ?_
    have e : { s with schedule := s.schedule.tail } = s := by rw [hs, List.tail_nil, ← hs]
    rw [e]
    exact ⟨by simp [State.blockTurn, hs], by simp [State.resetNext, hs], by simp [State.overrunNext, hs], h⟩
  · exact .inl (by simp [State.blockTurn, State.resetNext, State.overrunNext, hs, h])
  · exact .inr (.inl (by simp [State.blockTurn, State.resetNext, hs, h]))
  · obtain ⟨_, h⟩ := hostRead_next h
    exact .inr (.inr (.inl ⟨by simp [State.blockTurn, hs], by simp [State.resetNext, hs], _, by simp [hs, h]; rfl⟩))
  · obtain ⟨_, h⟩ := hostWrite_next h
    refine .inr (.inr (.inr ⟨by simp [State.blockTurn, hs], by simp [State.resetNext, hs], ?_⟩))
    rcases h with ⟨_, h⟩ | ⟨_, h⟩
    · exact ⟨_, s.draws, _, by simp [hs, h]; rfl⟩
    · exact ⟨_, s.draws + 1, _, by simp [hs, h]; rfl⟩

/-- A run of n + 1 steps is a step and a run of n steps. -/
theorem run_succ {n : Nat} {s t : State} : run (n + 1) s = some t ↔ ∃ u, step s = .next u ∧ run n u = some t := by
  simp only [run]
  cases step s <;> simp

/-- What is gathered along a run of n + 1 steps. -/
theorem gather_succ {α : Type} {f : State → List α} {n : Nat} {s u : State} (h : step s = .next u) :
    gather f (n + 1) s = f s ++ gather f n u := by
  simp [gather, h]

/-- A property that holds during n + 1 steps holds now and during the n steps after the next one. -/
theorem during_succ {p : State → Prop} {n : Nat} {s u : State} (h : step s = .next u) :
    during p (n + 1) s ↔ p s ∧ during p n u := by
  simp only [during, h]
  constructor
  · exact fun ⟨hp, hd⟩ => ⟨hp, hd u rfl⟩
  · rintro ⟨hp, hd⟩
    exact ⟨hp, fun t e => by cases e; exact hd⟩

@[simp] theorem msbFirst_length (len v : Nat) : (msbFirst len v).length = len := by simp [msbFirst]

@[simp] theorem wholeBytes_length (bits total : Nat) : (wholeBytes bits total).length = total / 8 := by
  simp [wholeBytes]

/-- Appending len code bits below the pending ones is arithmetic (R155). -/
theorem packBits_eq (acc : BitVec 8) (len : Nat) (val : CodeBits) :
    packBits acc len val = acc.toNat * 2 ^ len + val.toNat % 2 ^ len := by
  rw [packBits, Nat.shiftLeft_eq, mul_comm, Nat.two_pow_add_eq_or_of_lt (Nat.mod_lt _ (by positivity))]

end Sys2Proof.Machine
end

