-- ==== Sys2Proof/Laws/Tables.lean ====
section
/-! SUPPORT. Read after write on the internal arrays: FREQ, the node arena, the code table and the heap slots. -/

namespace Sys2Proof.Machine

theorem freqOf_set (f : Vector Word 256) (a b : Sym) (v : Word) :
    freqOf (f.set a.toNat v a.isLt) b = if a = b then v else freqOf f b := by
  simp only [freqOf, Vector.getElem_set]
  by_cases h : a = b
  · simp [h]
  · have : a.toNat ≠ b.toNat := fun e => h (BitVec.eq_of_toNat_eq e)
    simp [h, this]

@[simp] theorem freqOf_set_self (f : Vector Word 256) (a : Sym) (v : Word) :
    freqOf (f.set a.toNat v a.isLt) a = v := by
  simp [freqOf_set]

@[simp] theorem freqOf_replicate (v : Word) (a : Sym) : freqOf (Vector.replicate 256 v) a = v := by
  simp [freqOf]

@[simp] theorem lenOf_empty (a : Sym) : CodeTable.empty.lenOf a = 0#8 := by
  simp [CodeTable.lenOf, CodeTable.empty]

@[simp] theorem valOf_empty (a : Sym) : CodeTable.empty.valOf a = 0#255 := by
  simp [CodeTable.valOf, CodeTable.empty]

theorem lenOf_set (T : CodeTable) (a b : Sym) (l : BitVec 8) (v : CodeBits) :
    (T.set a l v).lenOf b = if a = b then l else T.lenOf b := by
  simp only [CodeTable.lenOf, CodeTable.set, Vector.getElem_set]
  by_cases h : a = b
  · simp [h]
  · have : a.toNat ≠ b.toNat := fun e => h (BitVec.eq_of_toNat_eq e)
    simp [h, this]

theorem valOf_set (T : CodeTable) (a b : Sym) (l : BitVec 8) (v : CodeBits) :
    (T.set a l v).valOf b = if a = b then v else T.valOf b := by
  simp only [CodeTable.valOf, CodeTable.set, Vector.getElem_set]
  by_cases h : a = b
  · simp [h]
  · have : a.toNat ≠ b.toNat := fun e => h (BitVec.eq_of_toNat_eq e)
    simp [h, this]

/-- NODE_W after a write of NODE_W. -/
theorem weightOf_setWeight (A : Arena) (a b : NodeId) (w : Weight) (ha : a.toNat < 511) :
    (A.setWeight a w).weightOf b = if a = b then w else A.weightOf b := by
  simp only [Arena.weightOf, Arena.setWeight]
  by_cases h : a = b
  · subst h; simp [ha]
  · have : a.toNat ≠ b.toNat := fun e => h (BitVec.eq_of_toNat_eq e)
    simp [h, this]

@[simp] theorem leftOf_setWeight (A : Arena) (a b : NodeId) (w : Weight) : (A.setWeight a w).leftOf b = A.leftOf b := rfl

@[simp] theorem rightOf_setWeight (A : Arena) (a b : NodeId) (w : Weight) :
    (A.setWeight a w).rightOf b = A.rightOf b := rfl

@[simp] theorem weightOf_setChildren (A : Arena) (a b l r : NodeId) :
    (A.setChildren a l r).weightOf b = A.weightOf b := rfl

/-- NODE_L after a write of an internal node's children. -/
theorem leftOf_setChildren (A : Arena) (a b l r : NodeId) (ha : 256 ≤ a.toNat) (ha' : a.toNat < 511)
    (hb : 256 ≤ b.toNat) : (A.setChildren a l r).leftOf b = if a = b then l else A.leftOf b := by
  simp only [Arena.leftOf, Arena.setChildren]
  by_cases h : a = b
  · subst h; simp [show a.toNat - 256 < 255 by omega]
  · have : a.toNat ≠ b.toNat := fun e => h (BitVec.eq_of_toNat_eq e)
    simp [h, show a.toNat - 256 ≠ b.toNat - 256 by omega]

/-- NODE_R after a write of an internal node's children. -/
theorem rightOf_setChildren (A : Arena) (a b l r : NodeId) (ha : 256 ≤ a.toNat) (ha' : a.toNat < 511)
    (hb : 256 ≤ b.toNat) : (A.setChildren a l r).rightOf b = if a = b then r else A.rightOf b := by
  simp only [Arena.rightOf, Arena.setChildren]
  by_cases h : a = b
  · subst h; simp [show a.toNat - 256 < 255 by omega]
  · have : a.toNat ≠ b.toNat := fun e => h (BitVec.eq_of_toNat_eq e)
    simp [h, show a.toNat - 256 ≠ b.toNat - 256 by omega]

/-- A heap slot after a write. -/
theorem Heap.get_put (h : Heap) (i j : Nat) (id : NodeId) (hi : i < 256) :
    (h.put i id).get j = if i = j then id else h.get j := by
  simp only [Heap.get, Heap.put]
  by_cases e : i = j
  · subst e; simp [hi]
  · simp [e]

@[simp] theorem Heap.put_n (h : Heap) (i : Nat) (id : NodeId) : (h.put i id).n = h.n := rfl

@[simp] theorem Heap.swap_n (h : Heap) (i j : Nat) : (h.swap i j).n = h.n := rfl

/-- A heap slot after a swap. -/
theorem Heap.get_swap (h : Heap) (i j k : Nat) (hi : i < 256) (hj : j < 256) :
    (h.swap i j).get k = if k = j then h.get i else if k = i then h.get j else h.get k := by
  rw [Heap.swap, Heap.get_put _ _ _ _ hj, Heap.get_put _ _ _ _ hi]
  by_cases e1 : j = k
  · simp [e1]
  · by_cases e2 : i = k
    · simp [e1, e2, show ¬ k = j from fun e => e1 e.symm]
    · simp [e1, e2, show ¬ k = j from fun e => e1 e.symm, show ¬ k = i from fun e => e2 e.symm]

@[simp] theorem Heap.siftUp_n (A : Arena) (fuel i : Nat) (h : Heap) : (Heap.siftUp A fuel i h).n = h.n := by
  induction fuel generalizing i h with
  | zero => rfl
  | succ fuel ih => simp only [Heap.siftUp]; split_ifs <;> simp [ih]

@[simp] theorem Heap.siftDown_n (A : Arena) (fuel i : Nat) (h : Heap) : (Heap.siftDown A fuel i h).n = h.n := by
  induction fuel generalizing i h with
  | zero => rfl
  | succ fuel ih => simp only [Heap.siftDown]; split_ifs <;> simp [ih]

/-- heap_insert adds one entry (R122). -/
@[simp] theorem Heap.insert_n (A : Arena) (h : Heap) (id : NodeId) : (h.insert A id).n = h.n + 1 := by
  simp [Heap.insert]

/-- heap_popmin takes one entry out (R123). -/
@[simp] theorem Heap.popmin_n (A : Arena) (h : Heap) : (h.popmin A).2.n = h.n - 1 := by
  simp only [Heap.popmin]; split_ifs <;> simp

/-- heap_popmin answers the top slot (R123). -/
@[simp] theorem Heap.popmin_fst (A : Arena) (h : Heap) : (h.popmin A).1 = h.get 0 := rfl

/-- One merge takes two nodes out and puts one in (R125). -/
theorem Builder.merge_n (B : Builder) (k : Nat) (h : 2 ≤ B.heap.n) : (B.merge k).heap.n = B.heap.n - 1 := by
  simp [Builder.merge]; omega

end Sys2Proof.Machine
end

