-- ==== Sys2Proof/Tests/Slice0.lean ====
section
/-! SUPPORT. Tests of the model on expected results taken from spec/ (mostly the vectors of spec/95_test_vectors.md), and for
every obligation with hypotheses a witness that meets them. -/

namespace Sys2Proof.Machine.Tests

/-- The state an outcome holds. -/
def nextOf (o : Host.Outcome State Fault Refusal) : Option State :=
  match o with
  | .next t => some t
  | .fault _ => none
  | .refused _ => none

/-- What is read off the state after one step of the block on the command word w (R91, then R93). -/
def after {α : Type} (s : State) (w : Word) (f : State → α) : Option α := (nextOf (step (s.issue w))).map f

/-- Reset with some counts loaded. -/
def loaded (l : List (Sym × Word)) : State := l.foldl (fun s p => s.setFreq p.1 p.2) State.reset

/-- The state BUILD leaves from a loaded table, with HEAP as it was. -/
def built (l : List (Sym × Word)) : State :=
  let s := loaded l
  let T := buildTree s.freq s.arena s.heap
  { s with arena := T.1, root := T.2, nLeaves := BitVec.ofNat 9 (numPresent s.freq), phase := .tree }

/-- The state GENCODES leaves after that. -/
def coded (l : List (Sym × Word)) : State :=
  let s := built l
  { s with codes := genTable s.arena s.root, phase := .codes }

/-! ### Well-formedness and decoding -/

theorem test_wellFormed_refuses_field_three : (Instr.readnode 0#9 3#2).wellFormed = false := by decide
theorem test_wellFormed_accepts_link : (Instr.readnode 511#9 2#2).wellFormed = true := by decide

/- The words of R83 and of the decode vectors V-ENC, one for each constructor. -/
theorem test_decode_nop : decode 0b00000000000000000000000000000000#32 = .ok .nop := by decide
theorem test_decode_clear : decode 0b00000001000000000000000000000000#32 = .ok .clear := by decide
theorem test_decode_count : decode 0b00000010000000000000000001100001#32 = .ok (.count 0x61#8) := by decide
theorem test_decode_setfreq : decode 0b00000011000000000000000011111111#32 = .ok (.setfreq 0xFF#8) := by decide
theorem test_decode_readfreq : decode 0b00000100000000000000000000000000#32 = .ok (.readfreq 0#8) := by decide
theorem test_decode_build : decode 0b00000101000000000000000000000000#32 = .ok .build := by decide
theorem test_decode_gencodes : decode 0b00000110000000000000000000000000#32 = .ok .gencodes := by decide
theorem test_decode_readlen : decode 0b00000111000000000000000001110010#32 = .ok (.readlen 0x72#8) := by decide
theorem test_decode_readcode : decode 0b00001000000000000000011101100001#32 = .ok (.readcode 0x61#8 7#3) := by decide
theorem test_decode_readnode : decode 0b00001001000000000000010100000011#32 = .ok (.readnode 259#9 2#2) := by decide
theorem test_decode_encode : decode 0b00001010000000000000000001100010#32 = .ok (.encode 0x62#8) := by decide
theorem test_decode_flush : decode 0b00001011000000000000000000000000#32 = .ok .flush := by decide
theorem test_decode_abort : decode 0b00001100000000000000000000000000#32 = .ok .abort := by decide
theorem test_decode_refuses_unassigned : decode 0x0D000000#32 = .error .unassignedOpcode := by decide
theorem test_decode_refuses_z_bit : decode 0x0A800061#32 = .error .reservedBitSet := by decide
theorem test_decode_refuses_field_three : decode 0x09000600#32 = .error .fieldThree := by decide
theorem test_encode_readnode : encode (.readnode 259#9 2#2) = 0x09000503#32 := by decide
theorem test_decodeTableWord : decodeTableWord 32 0x08000761 = some (.readcode 0x61#8 7#3) := by decide
theorem test_withFetchWord_runs_count :
    (nextOf (step (State.reset.withFetchWord 32 0x02000061))).map (fun t => freqOf t.freq 0x61#8) = some 1#32 := by decide

/-! ### One step of each command -/

/- V-CTL-1. -/
theorem test_nop : after State.reset 0x00000000#32 (fun t => (t.statusWord, t.errcodeWord)) = some (0#32, 0#32) := by decide
/- V-CTL-7. -/
theorem test_clear_in_error :
    after { State.reset with err := true, errcode := .emptyInput } 0x01000000#32 (fun t => (t.statusWord, t.errcodeWord)) =
      some (0#32, 0#32) := by decide
/- V-CTL-6. -/
theorem test_malformed_clear_in_error :
    after { State.reset with err := true, errcode := .emptyInput } 0x01000001#32 (fun t => (t.statusWord, t.errcodeWord)) =
      some (2#32, 1#32) := by decide
/- V-CTL-10. -/
theorem test_abort :
    after { State.reset with phase := .codes, accCnt := 2#3 } 0x0C000000#32 (fun t => (t.statusWord, t.errcodeWord)) =
      some (0x20A#32, 4#32) := by decide
/- V-ERR-6. -/
theorem test_illegal : after State.reset 0x0D000000#32 (fun t => (t.statusWord, t.errcodeWord)) = some (2#32, 6#32) := by
  decide
/- The priority vector "Illegal before phase". -/
theorem test_illegal_before_phase :
    after { State.reset with phase := .tree } 0x02000161#32 (fun t => t.errcodeWord) = some 6#32 := by decide
/- V-FREQ-4: symbol 0 is counted. -/
theorem test_count_zero :
    after (loaded [(0#8, 1#32)]) 0x02000000#32 (fun t => freqOf t.freq 0#8) = some 2#32 := by decide
/- V-FREQ-3. -/
theorem test_count_overflow :
    after (loaded [(0x41#8, 0xFFFFFFFF#32)]) 0x02000041#32 (fun t => (t.statusWord, t.errcodeWord, freqOf t.freq 0x41#8)) =
      some (2#32, 8#32, 0xFFFFFFFF#32) := by decide
/- V-CTL-4: the latched ARG counts. -/
theorem test_setfreq_latched :
    (nextOf (step { (State.mmioWrite { State.reset with arg := 5#32 } 3#4 0x03000078#32) with arg := 9#32 })).map
      (fun t => (freqOf t.freq 0x78#8, t.readReg 4#4)) = some (5#32, 9#32) := by decide
/- V-FREQ-7. -/
theorem test_readfreq_in_tree :
    after { loaded [(0x62#8, 1#32)] with phase := .tree } 0x04000062#32 (fun t => t.result) = some 1#32 := by decide
/- S3. -/
theorem test_build_empty :
    after State.reset 0x05000000#32 (fun t => (t.statusWord, t.errcodeWord, t.treeinfoWord)) = some (2#32, 1#32, 0#32) := by
  decide +kernel
/- V-TREE-2. -/
theorem test_build_two :
    after (loaded [(0x61#8, 4#32), (0x62#8, 1#32)]) 0x05000000#32
      (fun t => (t.statusWord, t.treeinfoWord, t.nodeWord 256#9 2#2, t.nodeWord 256#9 0#2)) =
      some (4#32, 0x00020100#32, some 0xC0620061#32, some 5#32) := by decide +kernel
/- V-TREE-5: at weight 2 the leaf 'a' beats node 256. -/
theorem test_build_tie :
    after (loaded [(0x61#8, 2#32), (0x62#8, 1#32), (0x63#8, 1#32)]) 0x05000000#32
      (fun t => (t.treeinfoWord, t.nodeWord 257#9 2#2)) = some (0x00030101#32, some 0xC0610100#32) := by decide +kernel
/- V-CODE-5. -/
theorem test_gencodes :
    after (built [(0x61#8, 2#32), (0x62#8, 1#32), (0x63#8, 1#32)]) 0x06000000#32
      (fun t => (codeString t.codes 0x61#8, codeString t.codes 0x62#8, codeString t.codes 0x63#8)) =
      some ([false], [true, false], [true, true]) := by decide +kernel
/- V-CODE-10. -/
theorem test_gencodes_in_load :
    after State.reset 0x06000000#32 (fun t => (t.statusWord, t.errcodeWord)) = some (2#32, 2#32) := by decide
/- V-TREE-10: READNODE of the root of a tree, and of an absent leaf. -/
theorem test_readnode_link :
    after (built [(0x61#8, 4#32), (0x62#8, 1#32)]) 0x09000500#32 (fun t => t.result) = some 0xC0620061#32 := by decide +kernel
theorem test_readnode_absent :
    after (built [(0x61#8, 4#32), (0x62#8, 1#32)]) 0x09000465#32 (fun t => (t.result, t.statusWord)) =
      some (0#32, 4#32) := by decide +kernel

/-- A code table with the codes of V-CODE-3 for 'a' ("0"), 'b' ("110") and 'r' ("111"). -/
def abrTable : CodeTable := ((CodeTable.empty.set 0x61#8 1#8 0#255).set 0x62#8 3#8 6#255).set 0x72#8 3#8 7#255

/-- CODES with that table. -/
def abr : State := { State.reset with phase := .codes, codes := abrTable }

/- V-CODE-3. -/
theorem test_readlen : after abr 0x07000072#32 (fun t => t.result) = some 3#32 := by decide
theorem test_readlen_in_tree :
    after { abr with phase := .tree } 0x07000061#32 (fun t => (t.statusWord, t.errcodeWord)) = some (6#32, 5#32) := by decide
theorem test_readcode : after abr 0x08000072#32 (fun t => t.result) = some 7#32 := by decide
theorem test_readcode_high_word :
    after { abr with codes := abrTable.set 0x61#8 46#8 0x3FFFFFFFFFFE#255 } 0x08000161#32 (fun t => t.result) =
      some 0x3FFF#32 := by decide
/- The first byte of V-PACK-3: "0" "110" "111" "0" is 0x6E. -/
theorem test_encode_fills_byte :
    after { abr with acc := 0b0110111#8, accCnt := 7#3 } 0x0A000061#32 (fun t => (t.outq, t.acc, t.accCnt, t.bitcnt)) =
      some ([0x6E#8], 0#8, 0#3, 1#64) := by decide
/- V-PACK-11. -/
theorem test_encode_unknown :
    after { abr with acc := 2#8, accCnt := 4#3 } 0x0A00007A#32 (fun t => (t.statusWord, t.errcodeWord, t.acc)) =
      some (0x40A#32, 3#32, 2#8) := by decide
/- S2: FLUSH pushes 0b11110 << 3 = 0xF0. -/
theorem test_flush :
    after { abr with acc := 0b11110#8, accCnt := 5#3 } 0x0B000000#32 (fun t => (t.outq, t.statusWord)) =
      some ([0xF0#8], 0x0C#32) := by decide
theorem test_flush_nothing : after abr 0x0B000000#32 (fun t => (t.outq, t.statusWord)) = some ([], 0x0C#32) := by decide

/-! ### The host's side -/

/- V-REG-1, V-REG-5. -/
theorem test_id : (State.reset.mmioWrite 0#4 0#32).readReg 0#4 = 0x48554631#32 := by decide
/- V-REG-9: an access at offset 0x1A is one at OUTDATA. -/
theorem test_unaligned_outdata : regIndex (Config.hccBase + 0x1A) = 6#4 := by simp [regIndex]
/- V-CTL-3. -/
theorem test_overrun :
    let t := (State.reset.issue 0x02000061#32).mmioWrite 3#4 0x02000062#32
    (t.statusWord, t.errcodeWord, t.freq = State.reset.freq) = (2#32, 7#32, State.reset.freq = State.reset.freq) := by
  rfl
/- R157. -/
theorem test_outdata :
    let t := State.mmioRead { State.reset with outq := [0xFE#8, 1#8] } 6#4
    (t.rdata, t.outq, t.hostOut) = (0x1FE#32, [1#8], [0xFE#8]) := by decide
/- V-PACK-12, step 2: STATUS reads 0x209 while the command is held. -/
theorem test_hold :
    after { abr with codes := abrTable.set 0#8 46#8 0x3FFFFFFFFFFE#255, accCnt := 2#3, acc := 2#8
                     outq := List.replicate 63 0xFF#8 } 0x0A000000#32 (fun t => (t.statusWord, t.outq.length)) =
      some (0x209#32, 63) := by decide

/-! ### Witnesses: for every obligation with hypotheses, a state and operands that meet all of them -/

/-- A word latched and the block's turn next. -/
def pending (w : Word) : State := State.reset.issue w

/-- CODES with the table abrTable, a word latched. -/
def abrPending (w : Word) : State := abr.issue w

/-- Reset with one event to come. -/
def facing (e : Event) : State := { State.reset with schedule := [e] }

theorem inWindow_offset (k : Nat) (h : k ≤ 0x3F) : inWindow (Config.hccBase + k) = true := by
  simp [inWindow]; omega

theorem witness_ResetEventSetsResetValues :
    ({ pending 0x02000061#32 with schedule := [.reset, .block] } : State).schedule = .reset :: [.block] := rfl

theorem witness_AddressSelectsRegister : (0 < 16 ∧ 0 < 4) ∧ (15 < 16 ∧ 3 < 4) := by decide

theorem witness_OutsideWindowIsRefused :
    (Config.hccBase + 0x40 < Config.hccBase ∨ Config.hccBase + 0x3F < Config.hccBase + 0x40) ∧
      (facing (.read (Config.hccBase + 0x40) .word)).schedule = .read (Config.hccBase + 0x40) .word :: [] ∧
      (facing (.write (Config.hccBase + 0x40) .byte 0#32)).schedule =
        .write (Config.hccBase + 0x40) .byte 0#32 :: [] :=
  ⟨by omega, rfl, rfl⟩

theorem witness_ReadsAreIdempotent :
    (facing (.read (Config.hccBase + 0x3F) .byte)).schedule = .read (Config.hccBase + 0x3F) .byte :: [] ∧
      inWindow (Config.hccBase + 0x3F) = true ∧ regIndex (Config.hccBase + 0x3F) ≠ 6#4 :=
  ⟨rfl, inWindow_offset _ (by omega), by simp [regIndex]⟩

theorem witness_OutdataReadPops_full :
    ({ facing (.read (Config.hccBase + 0x18) .word) with outq := [1#8] } : State).outq = 1#8 :: [] ∧
      inWindow (Config.hccBase + 0x18) = true ∧ regIndex (Config.hccBase + 0x18) = 6#4 :=
  ⟨rfl, inWindow_offset _ (by omega), by simp [regIndex]⟩

theorem witness_OutdataReadPops_empty :
    (facing (.read (Config.hccBase + 0x1B) .half)).outq = [] ∧ inWindow (Config.hccBase + 0x1B) = true ∧
      regIndex (Config.hccBase + 0x1B) = 6#4 :=
  ⟨rfl, inWindow_offset _ (by omega), by simp [regIndex]⟩

theorem witness_WritesBesideCmd_arg :
    inWindow (Config.hccBase + 0x10) = true ∧ regIndex (Config.hccBase + 0x10) ≠ 3#4 ∧
      regIndex (Config.hccBase + 0x10) = 4#4 :=
  ⟨inWindow_offset _ (by omega), by simp [regIndex], by simp [regIndex]⟩

theorem witness_WritesBesideCmd_other :
    inWindow (Config.hccBase + 0) = true ∧ regIndex (Config.hccBase + 0) ≠ 3#4 ∧ regIndex (Config.hccBase + 0) ≠ 4#4 :=
  ⟨inWindow_offset _ (by omega), by simp [regIndex], by simp [regIndex]⟩

theorem witness_NarrowWriteDrawsWord :
    (facing (.write (Config.hccBase + 0x0C) .byte 0#32)).schedule = .write (Config.hccBase + 0x0C) .byte 0#32 :: [] ∧
      inWindow (Config.hccBase + 0x0C) = true ∧ Size.byte ≠ .word :=
  ⟨rfl, inWindow_offset _ (by omega), by decide⟩

theorem witness_CmdWriteIssues :
    inWindow (Config.hccBase + 0x0C) = true ∧ regIndex (Config.hccBase + 0x0C) = 3#4 ∧
      (facing (.write (Config.hccBase + 0x0C) .word 5#32)).busy = false :=
  ⟨inWindow_offset _ (by omega), by simp [regIndex], rfl⟩

theorem witness_CmdWriteOverruns :
    inWindow (Config.hccBase + 0x0C) = true ∧ regIndex (Config.hccBase + 0x0C) = 3#4 ∧
      ({ facing (.write (Config.hccBase + 0x0C) .word 5#32) with busy := true, err := true } : State).busy = true ∧
      ({ facing (.write (Config.hccBase + 0x0C) .word 5#32) with busy := true } : State).err = false :=
  ⟨inWindow_offset _ (by omega), by simp [regIndex], rfl, rfl⟩

theorem witness_DecodeOfEncode : (Instr.readnode 511#9 2#2).wellFormed = true := by decide
theorem witness_EncodeOfDecode : decode 0x080007FF#32 = .ok (.readcode 0xFF#8 7#3) := by decide

theorem witness_StepRunsDecodedCommand :
    (pending 0x02000061#32).busy = true ∧ decode (pending 0x02000061#32).pendCmd = .ok (.count 0x61#8) ∧
      (pending 0x02000061#32).schedule = [] := by decide

theorem witness_StepRunsDecodedCommand_block :
    ({ pending 0x02000061#32 with schedule := [.block, .reset] } : State).busy = true ∧
      ({ pending 0x02000061#32 with schedule := [.block, .reset] } : State).schedule = .block :: [.reset] := by decide

theorem witness_IllegalWordIsRecorded :
    (pending 0xFF000000#32).blockTurn = true ∧ (pending 0xFF000000#32).busy = true ∧
      decode (pending 0xFF000000#32).pendCmd = .error .unassignedOpcode ∧ (pending 0xFF000000#32).err = false ∧
      ({ pending 0xFF000000#32 with err := true } : State).err = true := by decide

theorem witness_IdleBlockKeepsState : State.reset.busy = false ∧ State.reset.blockTurn = true := by decide

theorem witness_ErrorStateIgnoresCommands :
    Instr.abort ≠ .clear ∧ ({ State.reset with err := true, errcode := .illegalCmd } : State).err = true := by decide

theorem witness_ErrorStateIgnoresCommands_illegal :
    let s : State := { pending 0x01000001#32 with err := true, schedule := [.block] }
    s.err = true ∧ s.blockTurn = true ∧ s.busy = true ∧ decode s.pendCmd = .error .reservedBitSet := by decide

theorem witness_PhaseTable_gencodes : State.reset.err = false ∧ State.reset.phase ∉ allowedPhases .gencodes := by decide

theorem witness_PhaseTable_encode :
    ({ abr with phase := .done } : State).err = false ∧ ({ abr with phase := .done } : State).phase ∉ allowedPhases (.encode 0#8) := by
  decide

theorem witness_ErrorsArePrecise :
    (pending 0x0C000000#32).blockTurn = true ∧ (pending 0x0C000000#32).err = false ∧
      ∃ t, step (pending 0x0C000000#32) = .next t ∧ t.err = true := ⟨rfl, rfl, _, rfl, rfl⟩

theorem witness_FirstErrorStays :
    ∃ t, ({ pending 0x0C000000#32 with err := true, errcode := .illegalCmd } : State).err = true ∧
      step { pending 0x0C000000#32 with err := true, errcode := .illegalCmd } = .next t := ⟨_, rfl, rfl⟩

theorem witness_FirstErrorStays_clear :
    ({ pending 0x01000000#32 with err := true, errcode := .illegalCmd } : State).completing = some .clear := by decide

theorem witness_PhaseOrder :
    ∃ t, step (abrPending 0x0B000000#32) = .next t ∧ t.phase ≠ (abrPending 0x0B000000#32).phase :=
  ⟨_, rfl, by decide⟩

theorem witness_PhaseOrder_completes :
    (abrPending 0x0B000000#32).completing = some .flush ∧
      ∃ t, step (abrPending 0x0B000000#32) = .next t ∧ t.err = false :=
  ⟨by decide, _, rfl, rfl⟩

theorem witness_PhaseOrder_reset : (facing .reset).resetNext = true ∧ ∃ t, step (facing .reset) = .next t := ⟨rfl, _, rfl⟩

theorem witness_FreqChangesOnlyInLoad :
    ∃ t, step (pending 0x02000061#32) = .next t ∧ t.freq ≠ (pending 0x02000061#32).freq :=
  ⟨_, rfl, fun h => absurd (congrArg (fun f => freqOf f 0x61#8) h) (by decide)⟩

theorem witness_ResultChangesOnlyByReads :
    ∃ t, step (abrPending 0x07000072#32) = .next t ∧ t.result ≠ (abrPending 0x07000072#32).result :=
  ⟨_, rfl, by decide⟩

theorem witness_TreeChangesOnlyByBuild :
    ∃ t, step ((loaded [(0x61#8, 4#32)]).issue 0x05000000#32) = .next t ∧
      t.nLeaves ≠ ((loaded [(0x61#8, 4#32)]).issue 0x05000000#32).nLeaves :=
  ⟨_, rfl, by decide +kernel⟩

theorem witness_TreeChangesOnlyByBuild_kept :
    (∃ t, step (abrPending 0x0B000000#32) = .next t) ∧ (abrPending 0x0B000000#32).phase ≠ .load ∧
      (abrPending 0x0B000000#32).completing ≠ some .clear ∧ (abrPending 0x0B000000#32).resetNext = false :=
  ⟨⟨_, rfl⟩, by decide, by decide, rfl⟩

theorem witness_PushedBytesGrowOnlyByPacker :
    ∃ t, step { abrPending 0x0B000000#32 with accCnt := 1#3 } = .next t ∧
      t.pushedBytes ≠ ({ abrPending 0x0B000000#32 with accCnt := 1#3 } : State).pushedBytes :=
  ⟨_, rfl, by decide⟩

/-- CODES with 64 bytes queued and 7 bits pending. -/
def fullQueue : State := { abr with outq := List.replicate 64 0#8, accCnt := 7#3, acc := 0x7F#8 }

theorem witness_RegisterReadValues_outlevel : fullQueue.outq.length ≤ 64 := by decide

theorem witness_HeldCommandWaits :
    fullQueue.err = false ∧ fullQueue.phase = .codes ∧
      64 < (fullQueue.accCnt.toNat + (fullQueue.codes.lenOf 0x61#8).toNat) / 8 + fullQueue.outq.length ∧
      64 < (if fullQueue.accCnt.toNat > 0 then 1 else 0) + fullQueue.outq.length := by decide

theorem witness_UnheldCommandCompletes :
    (fullQueue.accCnt.toNat + (fullQueue.codes.lenOf 0x7A#8).toNat) / 8 + fullQueue.outq.length ≤ 64 ∧
      (if ({ fullQueue with accCnt := 0#3 } : State).accCnt.toNat > 0 then 1 else 0) + fullQueue.outq.length ≤ 64 ∧
      abr.outq = [] := by decide

theorem witness_AbortRecordsIoFailure : State.reset.err = false := rfl

theorem witness_CountAddsOne :
    (loaded [(0#8, 0xFFFFFFFE#32)]).err = false ∧ (loaded [(0#8, 0xFFFFFFFE#32)]).phase = .load ∧
      (freqOf (loaded [(0#8, 0xFFFFFFFE#32)]).freq 0#8).toNat < 2 ^ 32 - 1 ∧
      freqOf (loaded [(0#8, 0xFFFFFFFF#32)]).freq 0#8 = 0xFFFFFFFF#32 := by decide

theorem witness_SetfreqLoadsLatchedArg : (pending 0x03000061#32).err = false ∧ (pending 0x03000061#32).phase = .load :=
  ⟨rfl, rfl⟩

theorem witness_ReadfreqAnswersCount : ({ abr with phase := .done } : State).err = false := rfl

theorem witness_FreqTotalCountsCounts :
    during (fun u => u.resetNext = false ∧ u.completing ≠ some .clear ∧ ∀ sym, u.completing ≠ some (.setfreq sym)) 1
        (pending 0x02000061#32) ∧
      (∃ t, run 1 (pending 0x02000061#32) = some t) ∧
      gather State.countedSyms 1 (pending 0x02000061#32) = [0x61#8] := by
  have h : (pending 0x02000061#32).completing = some (.count 0x61#8) := by decide
  exact ⟨⟨⟨rfl, by simp [h], by simp [h]⟩, fun _ _ => trivial⟩, ⟨_, rfl⟩, by decide⟩

theorem witness_BuildOnEmptyTable :
    State.reset.err = false ∧ State.reset.phase = .load ∧ ∀ sym, freqOf State.reset.freq sym = 0#32 := by
  simp [State.reset, freqOf]

/- The hypotheses of BuildCompletes, TreeShape, TreeWeights, MergeWeightsNeverDecrease and BuildEqualsSetForm. -/
theorem witness_BuildCompletes :
    (loaded [(0xFF#8, 0xFFFFFFFF#32)]).err = false ∧ (loaded [(0xFF#8, 0xFFFFFFFF#32)]).phase = .load ∧
      ∃ sym, freqOf (loaded [(0xFF#8, 0xFFFFFFFF#32)]).freq sym ≠ 0#32 := ⟨rfl, rfl, 0xFF#8, by decide⟩

/- BuildCompletes, the clause for one present symbol, at the last one. -/
theorem witness_BuildCompletes_single :
    ∀ x, freqOf (loaded [(0xFF#8, 1#32)]).freq x ≠ 0#32 ↔ x = 0xFF#8 := by
  intro x
  have h : freqOf (loaded [(0xFF#8, 1#32)]).freq x = if 0xFF#8 = x then 1#32 else 0#32 := by
    show freqOf (State.reset.freq.set (0xFF#8).toNat 1#32 (0xFF#8).isLt) x = _
    simp only [freqOf, Vector.getElem_set, State.reset, Vector.getElem_replicate]
    by_cases e : 0xFF#8 = x
    · simp [← e]
    · simp [e, show ¬ 255 = x.toNat from fun c => e (BitVec.eq_of_toNat_eq c)]
  rw [h]
  by_cases e : 0xFF#8 = x
  · simp [← e]
  · simp [e, show ¬ x = 0xFF#8 from fun c => e c.symm]

/- TreeShape and MergeWeightsNeverDecrease, with four leaves and so three merges. -/
theorem witness_TreeShape_clauses :
    2 ≤ numPresent (loaded [(0#8, 1#32), (1#8, 1#32), (2#8, 1#32), (0xFF#8, 1#32)]).freq ∧
      1 + 1 < numPresent (loaded [(0#8, 1#32), (1#8, 1#32), (2#8, 1#32), (0xFF#8, 1#32)]).freq - 1 := by decide +kernel

theorem witness_HeapPopsLeast :
    Heap.ordered State.reset.arena { slots := State.reset.heap, n := 1 } ∧ (1 < 256) ∧ (0 < 1 ∧ 1 ≤ 256) :=
  ⟨fun i hi hn => absurd hn (by show ¬ i < 1; omega), by omega, by omega⟩

theorem witness_BuildDependsOnlyOnFreq :
    ∃ t t', (loaded [(0x61#8, 4#32)]).freq = ({ loaded [(0x61#8, 4#32)] with heap := Vector.replicate 256 7#9 } : State).freq ∧
      exec .build (loaded [(0x61#8, 4#32)]) = .next t ∧
      exec .build { loaded [(0x61#8, 4#32)] with heap := Vector.replicate 256 7#9 } = .next t' := ⟨_, _, rfl, rfl, rfl⟩

/-- A tree of two leaves, 'a' and 'b'. -/
def twoLeaves : State := built [(0x61#8, 4#32), (0x62#8, 1#32)]

/- The hypotheses of ReadnodeAnswersField, and its clauses at the borders of the ids. -/
theorem witness_ReadnodeAnswersField :
    twoLeaves.err = false ∧ twoLeaves.phase ≠ .load ∧ (2#2 ≠ 3#2) ∧ twoLeaves.nLeaves = 2#9 ∧
      freqOf twoLeaves.freq ((0x61#9).setWidth 8) ≠ 0#32 ∧ freqOf twoLeaves.freq ((255#9).setWidth 8) = 0#32 ∧
      256 ≤ 254 + twoLeaves.nLeaves.toNat ∧ 254 + twoLeaves.nLeaves.toNat < 257 ∧
      254 + twoLeaves.nLeaves.toNat < (511#9).toNat := by decide +kernel

theorem witness_GencodesCompletes :
    (built [(0x61#8, 4#32)]).err = false ∧ (built [(0x61#8, 4#32)]).phase = .tree ∧
      (built [(0x61#8, 4#32)]).root.toNat ≤ 255 := by decide +kernel

theorem loaded_keeps (l : List (Sym × Word)) :
    (loaded l).codes = .empty ∧ (loaded l).acc = 0#8 ∧ (loaded l).accCnt = 0#3 ∧ (loaded l).outq = [] ∧
      (loaded l).hostOut = [] ∧ (loaded l).bitcnt = 0#64 ∧ (loaded l).err = false ∧ (loaded l).errcode = .noError := by
  have h : ∀ (l : List (Sym × Word)) (s : State),
      (l.foldl (fun s p => s.setFreq p.1 p.2) s).codes = s.codes ∧ (l.foldl (fun s p => s.setFreq p.1 p.2) s).acc = s.acc ∧
      (l.foldl (fun s p => s.setFreq p.1 p.2) s).accCnt = s.accCnt ∧
      (l.foldl (fun s p => s.setFreq p.1 p.2) s).outq = s.outq ∧
      (l.foldl (fun s p => s.setFreq p.1 p.2) s).hostOut = s.hostOut ∧
      (l.foldl (fun s p => s.setFreq p.1 p.2) s).bitcnt = s.bitcnt ∧
      (l.foldl (fun s p => s.setFreq p.1 p.2) s).err = s.err ∧
      (l.foldl (fun s p => s.setFreq p.1 p.2) s).errcode = s.errcode := by
    intro l
    induction l with
    | nil => intro s; simp
    | cons p l ih => intro s; simpa using ih (s.setFreq p.1 p.2)
  exact h l State.reset

/-- A tree BUILD made from loaded counts meets the invariant. -/
theorem inv_built (l : List (Sym × Word)) (hn : numPresent (loaded l).freq ≠ 0)
    (hl : (built l).nLeaves.toNat = numPresent (loaded l).freq) (hr : (built l).validNode (built l).root = true) :
    Inv (built l) := by
  obtain ⟨hc, ha, hk, hq, ho, hb, he, hec⟩ := loaded_keeps l
  have hp : (built l).phase = .tree := rfl
  refine ⟨⟨?_, ?_, ?_, ?_, ?_, ?_⟩, ?_, fun _ => ⟨hn, rfl, _, _, rfl⟩, ?_, fun _ => ⟨?_, hk, hb⟩⟩
  · show (loaded l).acc.toNat < 2 ^ (loaded l).accCnt.toNat ∧ (loaded l).accCnt.toNat ≤ 7
    rw [ha, hk]; decide
  · show (loaded l).outq.length ≤ 64
    rw [hq]; decide
  · intro h; rw [hp] at h; cases h
  · refine fun _ => ⟨hl, by rw [hl]; omega, hr, fun sym => ?_⟩
    show (loaded l).codes.lenOf sym = 0#8
    rw [hc, CodeTable.lenOf, CodeTable.empty]; simp
  · intro h; rw [hp] at h; rcases h with h | h <;> cases h
  · intro h; rw [hp] at h; cases h
  · show (loaded l).err = true ↔ (loaded l).errcode ≠ .noError
    rw [he, hec]; decide
  · intro h; rw [hp] at h; rcases h with h | h <;> cases h
  · show (loaded l).hostOut ++ (loaded l).outq = []
    rw [ho, hq]; rfl

/- The hypotheses of InvariantKept, CodesArePaths and CodesArePrefixFree. -/
theorem witness_Inv_twoLeaves : Inv twoLeaves :=
  inv_built _ (by decide +kernel) (by decide +kernel) (by decide +kernel)

theorem witness_CodesArePaths :
    twoLeaves.err = false ∧ twoLeaves.phase = .tree ∧ 2 ≤ twoLeaves.nLeaves.toNat ∧
      freqOf twoLeaves.freq 0x61#8 ≠ 0#32 ∧ freqOf twoLeaves.freq 0x00#8 = 0#32 := by decide +kernel

theorem witness_InvariantKept : ∃ t, step (twoLeaves.issue 0x06000000#32) = .next t := ⟨_, rfl⟩

theorem witness_ReadlenAnswersLength : abr.err = false ∧ (abr.phase = .codes ∨ abr.phase = .done) := by decide

theorem witness_ReadcodeAnswersWord :
    ({ abr with phase := .done } : State).err = false ∧
      (({ abr with phase := .done } : State).phase = .codes ∨ ({ abr with phase := .done } : State).phase = .done) := by decide

/-- CODES with 63 bytes queued and 7 bits pending: one more byte fits. -/
def almostFull : State := { fullQueue with outq := List.replicate 63 0#8 }

/- The hypotheses of EncodeAppendsCode and EncodeEqualsBitSerial, at the last byte of room. -/
theorem witness_EncodeAppendsCode :
    almostFull.acc.toNat < 2 ^ almostFull.accCnt.toNat ∧ almostFull.err = false ∧ almostFull.phase = .codes ∧
      (almostFull.codes.lenOf 0x72#8).toNat ≠ 0 ∧
      (almostFull.accCnt.toNat + (almostFull.codes.lenOf 0x72#8).toNat) / 8 + almostFull.outq.length ≤ 64 ∧
      ∃ t, exec (.encode 0x72#8) almostFull = .next t := ⟨by decide, rfl, rfl, by decide, by decide, _, rfl⟩

theorem witness_EncodeUnknownSymbol :
    fullQueue.err = false ∧ fullQueue.phase = .codes ∧ fullQueue.outq.length ≤ 64 ∧
      (fullQueue.codes.lenOf 0x7A#8).toNat = 0 := by decide

theorem witness_FlushPadsLastByte :
    almostFull.acc.toNat < 2 ^ almostFull.accCnt.toNat ∧ almostFull.err = false ∧ almostFull.phase = .codes ∧
      (if almostFull.accCnt.toNat > 0 then 1 else 0) + almostFull.outq.length ≤ 64 ∧ almostFull.accCnt.toNat ≠ 0 ∧
      abr.accCnt.toNat = 0 := by decide

theorem witness_PackerBoundsKept :
    fullQueue.acc.toNat < 2 ^ fullQueue.accCnt.toNat ∧ fullQueue.outq.length ≤ 64 ∧
      ∃ t, step (fullQueue.issue 0x0A000061#32) = .next t := ⟨by decide, by decide, _, rfl⟩

/-- A 32-bit CMD write is a step that writes register 3. -/
theorem step_cmd_write {s : State} {w : Word} {rest : List Event}
    (h : s.schedule = .write (Config.hccBase + 0x0C) .word w :: rest) :
    step s = .next (State.mmioWrite { s with schedule := rest } 3#4 w) := by
  simp [step, runEvent, h, hostWrite, inWindow, regIndex]

/-- ENCODE 'r' is pending; the host then issues FLUSH. -/
def encodeThenFlush : State :=
  { abrPending 0x0A000072#32 with schedule := [.block, .write (Config.hccBase + 0x0C) .word 0x0B000000#32] }

/-- After the ENCODE. -/
def encoded : State :=
  { abrPending 0x0A000072#32 with
    busy := false, acc := 7#8, accCnt := 3#3, bitcnt := 3#64
    schedule := [.write (Config.hccBase + 0x0C) .word 0x0B000000#32] }

/-- After the FLUSH is issued. -/
def flushIssued : State := State.mmioWrite { encoded with schedule := [] } 3#4 0x0B000000#32

/- The hypotheses of EncodedStreamOfRun: an ENCODE, a CMD write, and the FLUSH. -/
theorem witness_EncodedStreamOfRun :
    encodeThenFlush.streamBits = [] ∧ encodeThenFlush.acc = 0#8 ∧ during (fun v => v.phase = .codes) 2 encodeThenFlush ∧
      run 2 encodeThenFlush = some flushIssued ∧ flushIssued.phase = .codes ∧ flushIssued.err = false ∧
      flushIssued.completing = some .flush ∧ (∃ u, step flushIssued = .next u) ∧
      gather State.encodedSyms 2 encodeThenFlush = [0x72#8] := by
  have h1 : step encodeThenFlush = .next encoded := rfl
  have h2 : step encoded = .next flushIssued := step_cmd_write rfl
  refine ⟨by decide, rfl, ?_, ?_, rfl, rfl, by decide, ⟨_, rfl⟩, ?_⟩
  · rw [during_succ h1, during_succ h2]
    exact ⟨rfl, rfl, trivial⟩
  · simp only [run, h1, h2]
  · rw [gather_succ h1, gather_succ h2]
    decide

/-- A COUNT is pending; the block's turn comes at once, or after a host read of STATUS. -/
def countNow : State := { pending 0x02000061#32 with schedule := [.block] }
def countLater : State := { pending 0x02000061#32 with schedule := [.read (Config.hccBase + 4) .word, .block] }

theorem inv_load {s : State} (h : s.phase = .load) (ha : s.acc = 0#8) (hc : s.accCnt = 0#3) (hq : s.outq = [])
    (ho : s.hostOut = []) (hr : s.root = 0#9) (hn : s.nLeaves = 0#9) (ht : s.codes = .empty) (hb : s.bitcnt = 0#64)
    (he : s.err = false) (hec : s.errcode = .noError) : Inv s where
  rule43 :=
    { acc_lt := by simp [ha, hc]
      outq_le := by simp [hq]
      in_load := fun _ => ⟨hn, hr, fun sym => by simp [ht, CodeTable.lenOf, CodeTable.empty], hb⟩
      in_tree := fun e => by simp [h] at e
      in_codes := fun e => by simp [h] at e
      in_done := fun e => by simp [h] at e }
  errcode := by simp [he, hec]
  tree := fun e => absurd h e
  table := fun e => by simp [h] at e
  no_output := fun _ => ⟨by simp [State.pushedBytes, hq, ho], hc, hb⟩

theorem witness_RegisterReadValues_treeinfo : Rule43 countNow ∧ countNow.phase = .load :=
  ⟨(inv_load rfl rfl rfl rfl rfl rfl rfl rfl rfl rfl rfl).rule43, rfl⟩

theorem witness_RunIsDeterminedByCommands :
    Inv countNow ∧ Inv countLater ∧ countNow.view = countLater.view ∧
      during (fun u => u.resetNext = false ∧ u.overrunNext = false) 1 countNow ∧
      during (fun u => u.resetNext = false ∧ u.overrunNext = false) 2 countLater ∧
      (∃ t, run 1 countNow = some t) ∧ (∃ t, run 2 countLater = some t) ∧
      gather State.completingWord 1 countNow = gather State.completingWord 2 countLater ∧
      gather State.completingWord 1 countNow = [(0x02000061#32, 0#32)] := by
  have h1 : step countLater = .next { countNow with rdata := 1#32 } := by
    simp [step, runEvent, countLater, hostRead, inWindow, regIndex, State.mmioRead, countNow, pending, State.issue,
      State.readReg, State.statusWord, State.reset, Phase.bits]
  refine ⟨inv_load rfl rfl rfl rfl rfl rfl rfl rfl rfl rfl rfl, inv_load rfl rfl rfl rfl rfl rfl rfl rfl rfl rfl rfl,
    rfl, ⟨⟨rfl, rfl⟩, fun _ _ => trivial⟩, ?_, ⟨_, rfl⟩, ?_, ?_, by decide⟩
  · rw [during_succ h1]
    exact ⟨⟨rfl, rfl⟩, ⟨rfl, rfl⟩, fun _ _ => trivial⟩
  · simp only [run, h1]
    exact ⟨_, rfl⟩
  · rw [gather_succ h1]
    decide

end Sys2Proof.Machine.Tests
end

section
/-! SUPPORT. The heap of BUILD as a bag of ids, whatever the order of its slots (spec/42_tree.md R122, R123). -/

namespace Sys2Proof.Machine

/-! ### The heap as a bag of ids -/

/-- Swapping two slots in use keeps the bag of ids. -/
theorem Heap.ids_swap_perm (h : Heap) {i j : Nat} (hi : i < h.n) (hj : j < h.n) (hn : h.n ≤ 256) :
    (h.swap i j).ids.Perm h.ids := by
  have hget : ∀ k, (h.swap i j).get k = h.get (Equiv.swap i j k) := by
    intro k
    rw [Heap.get_swap h i j k (by omega) (by omega), Equiv.swap_apply_def]
    grind
  have hperm : ((List.range h.n).map (Equiv.swap i j)).Perm (List.range h.n) := by
    rw [List.perm_ext_iff_of_nodup (List.nodup_range.map (Equiv.swap i j).injective) List.nodup_range]
    intro k
    simp only [List.mem_map, List.mem_range]
    constructor
    · rintro ⟨m, hm, rfl⟩
      rw [Equiv.swap_apply_def]
      grind
    · intro hk
      refine ⟨Equiv.swap i j k, ?_, Equiv.swap_apply_self i j k⟩
      rw [Equiv.swap_apply_def]
      grind
  have hids : (h.swap i j).ids = ((List.range h.n).map (Equiv.swap i j)).map h.get := by
    rw [Heap.ids, Heap.swap_n, List.map_map]
    exact List.map_congr_left fun k _ => hget k
  exact hids ▸ hperm.map h.get

/-- heap_insert's loop only moves ids (R122). -/
theorem Heap.ids_siftUp_perm (A : Arena) (fuel i : Nat) (h : Heap) (hi : i < h.n) (hn : h.n ≤ 256) :
    (Heap.siftUp A fuel i h).ids.Perm h.ids := by
  induction fuel generalizing i h with
  | zero => exact .refl _
  | succ fuel ih =>
    simp only [Heap.siftUp]
    split_ifs
    · exact .refl _
    · exact (ih _ _ (by simp; omega) (by simpa using hn)).trans (h.ids_swap_perm hi (by omega) hn)
    · exact .refl _

/-- heap_insert adds the id to the bag, whatever the order of the slots (R122). -/
theorem Heap.ids_insert_perm (A : Arena) (h : Heap) (id : NodeId) (hn : h.n < 256) :
    (h.insert A id).ids.Perm (id :: h.ids) := by
  have hput : Heap.ids { h.put h.n id with n := h.n + 1 } = h.ids ++ [id] := by
    have hold : ∀ k ∈ List.range h.n, (h.put h.n id).get k = h.get k := by
      intro k hk
      rw [List.mem_range] at hk
      rw [Heap.get_put _ _ _ _ hn, if_neg (by omega)]
    have hnew : (h.put h.n id).get h.n = id := by simp [Heap.get_put _ _ _ _ hn]
    show (List.range (h.n + 1)).map (h.put h.n id).get = _
    simp [List.range_succ, Heap.ids, List.map_congr_left hold, hnew]
  have hsift := Heap.ids_siftUp_perm A h.n h.n { h.put h.n id with n := h.n + 1 } (by simp) (by simp; omega)
  exact hsift.trans (hput ▸ List.perm_append_singleton id h.ids)

theorem Heap.smaller_lt (A : Arena) (h : Heap) {c m : Nat} (hm : m < h.n) : h.smaller A c m < h.n := by
  unfold Heap.smaller
  split_ifs with hc
  · exact hc.1
  · exact hm

/-- heap_popmin's loop only moves ids (R123). -/
theorem Heap.ids_siftDown_perm (A : Arena) (fuel i : Nat) (h : Heap) (hi : i < h.n) (hn : h.n ≤ 256) :
    (Heap.siftDown A fuel i h).ids.Perm h.ids := by
  induction fuel generalizing i h with
  | zero => exact .refl _
  | succ fuel ih =>
    have hm := h.smaller_lt A (c := 2 * i + 2) (h.smaller_lt A (c := 2 * i + 1) hi)
    simp only [Heap.siftDown]
    split_ifs
    · exact .refl _
    · exact (ih _ _ (by simpa using hm) (by simpa using hn)).trans (h.ids_swap_perm hi hm hn)

/-- heap_popmin takes the id it answers out of the bag, whatever the order of the slots (R123). -/
theorem Heap.ids_perm_popmin (A : Arena) (h : Heap) (h0 : 0 < h.n) (hn : h.n ≤ 256) :
    h.ids.Perm ((h.popmin A).1 :: (h.popmin A).2.ids) := by
  obtain ⟨slots, n⟩ := h
  obtain ⟨m, rfl⟩ : ∃ m, n = m + 1 := ⟨n - 1, by simp at h0; omega⟩
  set h : Heap := ⟨slots, m + 1⟩
  have hids : h.ids = h.get 0 :: (List.range m).map fun k => h.get (k + 1) := by
    simp [Heap.ids, h, List.range_succ_eq_map, Function.comp_def]
  rw [hids]
  refine List.Perm.cons _ ?_
  cases m with
  | zero => simp [Heap.popmin, Heap.ids, h]
  | succ p =>
    set h1 : Heap := { h with n := p + 1 }
    have hsift : (h.popmin A).2.ids.Perm (h1.put 0 (h.get (p + 1))).ids := by
      have : (h.popmin A).2 = Heap.siftDown A (p + 1) 0 (h1.put 0 (h1.get (p + 1))) := by
        simp [Heap.popmin, h, h1]
      rw [this]
      exact Heap.ids_siftDown_perm A _ _ _ (by simp [h1]) (by simp [h1]; simp [h] at hn; omega)
    have hput : (h1.put 0 (h.get (p + 1))).ids = h.get (p + 1) :: (List.range p).map fun k => h.get (k + 1) := by
      have hrest : ∀ k, (h1.put 0 (h.get (p + 1))).get (k + 1) = h.get (k + 1) := by
        intro k
        rw [Heap.get_put _ _ _ _ (by omega), if_neg (by omega)]
        rfl
      have htop : (h1.put 0 (h.get (p + 1))).get 0 = h.get (p + 1) := by simp [Heap.get_put]
      rw [Heap.ids, show (h1.put 0 (h.get (p + 1))).n = p + 1 from rfl, List.range_succ_eq_map]
      simp [Function.comp_def, hrest, htop]
    rw [List.range_succ, List.map_append]
    exact (List.perm_append_singleton _ _).trans (hput ▸ hsift.symm)

end Sys2Proof.Machine
end

section
/-! SUPPORT. BUILD makes a tree of the present symbols, and GENCODES gives codes to its leaves (spec/42_tree.md R125,
R126; spec/43_codes.md R140, R141). -/

namespace Sys2Proof.Machine

/-! ### Trees of node ids -/

/-- A finite tree of nodes: leaves by symbol, internal nodes by id (R33, R126). -/
inductive NodeTree where
  | leaf (sym : Sym)
  | node (id : NodeId) (l r : NodeTree)

namespace NodeTree

/-- The id of the tree's top node. -/
def root : NodeTree → NodeId
  | leaf sym => leafId sym
  | node id _ _ => id

/-- The symbols of the leaves, left to right. -/
def leaves : NodeTree → List Sym
  | leaf sym => [sym]
  | node _ l r => l.leaves ++ r.leaves

/-- The ids of the internal nodes. -/
def inner : NodeTree → List NodeId
  | leaf _ => []
  | node id l r => id :: (l.inner ++ r.inner)

/-- The longest path from the root to a leaf. -/
def depth : NodeTree → Nat
  | leaf _ => 0
  | node _ l r => max l.depth r.depth + 1

/-- The arena's children fields lay the tree out (R33). -/
def heldBy (A : Arena) : NodeTree → Prop
  | leaf _ => True
  | node id l r => isLeafId id = false ∧ A.leftOf id = l.root ∧ A.rightOf id = r.root ∧ l.heldBy A ∧ r.heldBy A

/-- A binary tree has one leaf more than it has internal nodes. -/
theorem length_leaves (t : NodeTree) : t.leaves.length = t.inner.length + 1 := by
  induction t with
  | leaf sym => rfl
  | node id l r ihl ihr => simp only [leaves, inner, List.length_append, List.length_cons, ihl, ihr]; omega

theorem depth_lt_length_leaves (t : NodeTree) : t.depth < t.leaves.length := by
  induction t with
  | leaf sym => simp [depth, leaves]
  | node id l r ihl ihr => simp only [depth, leaves, List.length_append]; omega

/-- Writes of the arena outside the tree's internal nodes leave it laid out. -/
theorem heldBy_congr {A A' : Arena} {t : NodeTree} (ht : t.heldBy A)
    (h : ∀ n ∈ t.inner, A'.leftOf n = A.leftOf n ∧ A'.rightOf n = A.rightOf n) : t.heldBy A' := by
  induction t with
  | leaf sym => trivial
  | node id l r ihl ihr =>
    obtain ⟨hid, hl, hr, htl, htr⟩ := ht
    obtain ⟨hl', hr'⟩ := h id (by simp [inner])
    exact ⟨hid, hl'.trans hl, hr'.trans hr, ihl htl fun n hn => h n (by simp [inner, hn]),
      ihr htr fun n hn => h n (by simp [inner, hn])⟩

end NodeTree

@[simp] theorem isLeafId_leafId (sym : Sym) : isLeafId (leafId sym) = true := by
  have := sym.isLt
  simp [isLeafId, leafId]
  omega

@[simp] theorem leafSym_leafId (sym : Sym) : leafSym (leafId sym) = sym := by
  simp [leafSym, leafId]

theorem mergeId_toNat {k : Nat} (hk : k < 256) : (mergeId k).toNat = 256 + k := by
  simp [mergeId]; omega

theorem isLeafId_mergeId {k : Nat} (hk : k < 256) : isLeafId (mergeId k) = false := by
  simp [isLeafId, mergeId_toNat hk]
  omega

/-- A merge's id is new: no earlier merge had it (R125). -/
theorem mergeId_notMem_range {k : Nat} (hk : k < 256) : mergeId k ∉ (List.range k).map mergeId := by
  simp only [List.mem_map, List.mem_range, not_exists, not_and]
  intro j hj he
  have := congrArg BitVec.toNat he
  rw [mergeId_toNat hk, mergeId_toNat (by omega)] at this
  omega

/-- A symbol is in the list BUILD works through exactly when its count is not 0 (R34, R120). -/
theorem mem_presentSyms {f : Vector Word 256} {sym : Sym} : sym ∈ presentSyms f ↔ freqOf f sym ≠ 0#32 := by
  have : ∃ i < 256, BitVec.ofNat 8 i = sym := ⟨sym.toNat, sym.isLt, by simp⟩
  simp [presentSyms, present, this]

theorem numPresent_le (f : Vector Word 256) : numPresent f ≤ 256 :=
  (List.length_filter_le _ _).trans (by simp)

theorem numPresent_ofNat_toNat (f : Vector Word 256) : (BitVec.ofNat 9 (numPresent f)).toNat = numPresent f := by
  have := numPresent_le f
  simp; omega

/-! ### BUILD makes a tree of the present symbols -/

/-- BUILD after k merges over these symbols: the heap holds the roots of a forest that the arena lays out, whose leaves
are the symbols and whose internal nodes are the merges so far (R125, R126). -/
structure Builder.Forest (B : Builder) (ts : List NodeTree) (k : Nat) (syms : List Sym) : Prop where
  ids    : B.heap.ids.Perm (ts.map NodeTree.root)
  held   : ∀ t ∈ ts, t.heldBy B.arena
  inner  : (ts.flatMap NodeTree.inner).Perm ((List.range k).map mergeId)
  leaves : (ts.flatMap NodeTree.leaves).Perm syms

namespace Builder.Forest

variable {B : Builder} {ts : List NodeTree} {k : Nat} {syms : List Sym}

theorem heap_n (h : B.Forest ts k syms) : B.heap.n = ts.length := by
  simpa [Heap.ids] using h.ids.length_eq

/-- A merge takes one tree off the forest, so the trees and the merges add up to the symbols. -/
theorem length_add (h : B.Forest ts k syms) : ts.length + k = syms.length := by
  have hl : ∀ us : List NodeTree, (us.flatMap NodeTree.leaves).length =
      (us.flatMap NodeTree.inner).length + us.length := by
    intro us
    induction us with
    | nil => rfl
    | cons u us ih =>
      simp only [List.flatMap_cons, List.length_append, List.length_cons, u.length_leaves, ih]
      omega
  have hi := h.inner.length_eq
  have := h.leaves.length_eq
  have := hl ts
  simp only [List.length_map, List.length_range] at hi
  omega

/-- The order of the forest does not matter. -/
theorem perm {us : List NodeTree} (h : B.Forest ts k syms) (hp : ts.Perm us) : B.Forest us k syms where
  ids := h.ids.trans (hp.map _)
  held := fun t ht => h.held t (hp.mem_iff.2 ht)
  inner := (hp.symm.flatMap_right _).trans h.inner
  leaves := (hp.symm.flatMap_right _).trans h.leaves

/-- Step 1 of BUILD adds a leaf to the forest (R125). -/
theorem addLeaf (h : B.Forest ts 0 syms) (f : Vector Word 256) (sym : Sym) (hn : syms.length < 256) :
    (B.addLeaf f sym).Forest (.leaf sym :: ts) 0 (sym :: syms) where
  ids := by
    have := h.heap_n
    have := h.length_add
    exact (Heap.ids_insert_perm _ _ _ (by omega)).trans (h.ids.cons _)
  held := by
    intro t ht
    rcases List.mem_cons.1 ht with rfl | ht
    · trivial
    · exact NodeTree.heldBy_congr (h.held t ht) fun n _ => ⟨rfl, rfl⟩
  inner := h.inner
  leaves := h.leaves.cons sym

end Builder.Forest

/-- Taking one value off a list of images takes an element with that image off the list. -/
theorem exists_perm_cons_of_map_perm {α β : Type} {g : α → β} {l : List α} {b : β} {bs : List β}
    (h : (l.map g).Perm (b :: bs)) : ∃ a l', g a = b ∧ l.Perm (a :: l') ∧ bs.Perm (l'.map g) := by
  obtain ⟨a, ha, rfl⟩ := List.mem_map.1 (h.symm.subset List.mem_cons_self)
  obtain ⟨l₁, l₂, rfl⟩ := List.append_of_mem ha
  have hp : (l₁ ++ a :: l₂).Perm (a :: (l₁ ++ l₂)) := List.perm_middle
  exact ⟨a, l₁ ++ l₂, rfl, hp, (h.symm.trans (hp.map g)).cons_inv⟩

/-- The arena after the k-th merge, at another internal node. -/
theorem children_of_merge_ne (A : Arena) {k : Nat} (hk : k < 255) (w : Weight) (a b : NodeId) {n : NodeId}
    (hn : n ≠ mergeId k) (hleaf : isLeafId n = false) :
    ((A.setWeight (mergeId k) w).setChildren (mergeId k) a b).leftOf n = A.leftOf n ∧
      ((A.setWeight (mergeId k) w).setChildren (mergeId k) a b).rightOf n = A.rightOf n := by
  have hm := mergeId_toNat (k := k) (by omega)
  have hn' : 256 ≤ n.toNat := by simp [isLeafId] at hleaf; omega
  rw [leftOf_setChildren _ _ _ _ _ (by omega) (by omega) hn', rightOf_setChildren _ _ _ _ _ (by omega) (by omega) hn']
  simp [hn.symm]

/-- The heap after the k-th merge: two ids out, the new one in (R125). -/
theorem Builder.merge_heap (B : Builder) (k : Nat) :
    (B.merge k).heap =
      ((B.heap.popmin B.arena).2.popmin B.arena).2.insert (B.merge k).arena (mergeId k) := rfl

/-- The arena after the k-th merge: the new node's weight and children (R125). -/
theorem Builder.merge_arena (B : Builder) (k : Nat) :
    ∃ w, (B.merge k).arena =
      (B.arena.setWeight (mergeId k) w).setChildren (mergeId k) (B.heap.popmin B.arena).1
        ((B.heap.popmin B.arena).2.popmin B.arena).1 := ⟨_, rfl⟩

namespace Builder.Forest

variable {B : Builder} {ts : List NodeTree} {k : Nat} {syms : List Sym}

/-- The two ids a merge removes are the roots of two trees of the forest. -/
theorem removed (h : B.Forest ts k syms) (hn : 2 ≤ ts.length) (hs : syms.length ≤ 256) :
    ∃ l r us, ts.Perm (l :: r :: us) ∧ l.root = (B.heap.popmin B.arena).1 ∧
      r.root = ((B.heap.popmin B.arena).2.popmin B.arena).1 ∧
      ((B.heap.popmin B.arena).2.popmin B.arena).2.ids.Perm (us.map NodeTree.root) := by
  have hheap := h.heap_n
  have hlen := h.length_add
  have hfirst := h.ids.symm.trans (Heap.ids_perm_popmin B.arena B.heap (by omega) (by omega))
  obtain ⟨l, vs, hl, hts, hvs⟩ := exists_perm_cons_of_map_perm hfirst
  have hsecond := hvs.symm.trans (Heap.ids_perm_popmin B.arena (B.heap.popmin B.arena).2
    (by simp; omega) (by simp; omega))
  obtain ⟨r, us, hr, hus, hrest⟩ := exists_perm_cons_of_map_perm hsecond
  exact ⟨l, r, us, hts.trans (hus.cons l), hl, hr, hrest⟩

/-- Step 2 of BUILD joins two trees of the forest under a new node (R125). -/
theorem merge (h : B.Forest ts k syms) (hn : 2 ≤ ts.length) (hs : syms.length ≤ 256) :
    ∃ l r us, ts.Perm (l :: r :: us) ∧ (B.merge k).Forest (.node (mergeId k) l r :: us) (k + 1) syms := by
  obtain ⟨l, r, us, hts, hl, hr, hrest⟩ := h.removed hn hs
  have hlen := h.length_add
  have hheap := h.heap_n
  have hk : k < 255 := by omega
  obtain ⟨hids, hheld, hinner, hleaves⟩ := h.perm hts
  refine ⟨l, r, us, hts, ?_, ?_, ?_, ?_⟩
  · rw [B.merge_heap]
    refine (Heap.ids_insert_perm _ _ _ ?_).trans (hrest.cons (mergeId k))
    rw [Heap.popmin_n, Heap.popmin_n]
    omega
  · obtain ⟨w, harena⟩ := B.merge_arena k
    rw [harena, ← hl, ← hr]
    have hkeep : ∀ t ∈ l :: r :: us,
        t.heldBy ((B.arena.setWeight (mergeId k) w).setChildren (mergeId k) l.root r.root) := by
      intro t ht
      refine NodeTree.heldBy_congr (hheld t ht) fun n hmem => ?_
      have hn : n ∈ (List.range k).map mergeId := hinner.subset (List.mem_flatMap.2 ⟨t, ht, hmem⟩)
      refine children_of_merge_ne B.arena hk _ _ _ (fun e => mergeId_notMem_range (by omega) (e ▸ hn)) ?_
      obtain ⟨j, hj, rfl⟩ := List.mem_map.1 hn
      exact isLeafId_mergeId (by rw [List.mem_range] at hj; omega)
    have hm := mergeId_toNat (k := k) (by omega)
    intro t ht
    rcases List.mem_cons.1 ht with rfl | ht
    · refine ⟨isLeafId_mergeId (by omega), ?_, ?_, hkeep l (by simp), hkeep r (by simp)⟩
      · rw [leftOf_setChildren _ _ _ _ _ (by omega) (by omega) (by omega), if_pos rfl]
      · rw [rightOf_setChildren _ _ _ _ _ (by omega) (by omega) (by omega), if_pos rfl]
    · exact hkeep t (by simp [ht])
  · rw [List.range_succ, List.map_append]
    refine .trans ?_ (List.perm_append_singleton (mergeId k) _).symm
    simpa [NodeTree.inner, List.append_assoc] using hinner
  · simpa [NodeTree.leaves, List.append_assoc] using hleaves

/-- Step 2 of BUILD merges until one tree is left (R125). -/
theorem mergeAll (h : B.Forest ts k syms) (h0 : ts ≠ []) (hs : syms.length ≤ 256) {fuel : Nat}
    (hfuel : ts.length ≤ fuel + 1) : ∃ t, (Builder.mergeAll fuel k B).Forest [t] (syms.length - 1) syms := by
  have hdone : ∀ {B : Builder} {ts k}, B.Forest ts k syms → ts ≠ [] → ts.length ≤ 1 →
      ∃ t, B.Forest [t] (syms.length - 1) syms := by
    intro B ts k h h0 h1
    obtain ⟨t, rfl⟩ := List.length_eq_one_iff.1 (Nat.le_antisymm h1 (List.length_pos_iff.2 h0))
    have hlen := h.length_add
    obtain rfl : k = syms.length - 1 := by simp at hlen; omega
    exact ⟨t, h⟩
  induction fuel generalizing B ts k with
  | zero => exact hdone h h0 hfuel
  | succ fuel ih =>
    unfold Builder.mergeAll
    rw [h.heap_n]
    split_ifs with hn
    · obtain ⟨l, r, us, hts, hmerged⟩ := h.merge hn hs
      have := hts.length_eq
      exact ih hmerged (by simp) (by simp at this ⊢; omega)
    · exact hdone h h0 (by omega)

/-- Step 1 of BUILD makes a forest of leaves (R125). -/
theorem addLeaves (f : Vector Word 256) (new : List Sym) (h : B.Forest ts 0 syms)
    (hn : syms.length + new.length ≤ 256) :
    ∃ us, (new.foldl (Builder.addLeaf f) B).Forest us 0 (new.reverse ++ syms) := by
  induction new generalizing B ts syms with
  | nil => exact ⟨ts, h⟩
  | cons sym new ih =>
    simp only [List.length_cons] at hn
    obtain ⟨us, hus⟩ := ih (h.addLeaf f sym (by omega)) (by simp; omega)
    exact ⟨us, by simpa using hus⟩

end Builder.Forest

/-- A tree of the present symbols of f with the merges' ids, laid out in the arena below the root (R126). -/
structure NodeTree.IsTreeOf (t : NodeTree) (f : Vector Word 256) (A : Arena) (root : NodeId) : Prop where
  root_eq : t.root = root
  held    : t.heldBy A
  inner   : t.inner.Perm (internalIds (numPresent f))
  leaves  : t.leaves.Perm (presentSyms f)

/-- BUILD makes a tree of the present symbols, whatever the arena and the slots of HEAP held before (R125, R126). -/
theorem exists_isTreeOf_buildTree (f : Vector Word 256) (A : Arena) (slots : Vector NodeId 256)
    (hn : numPresent f ≠ 0) :
    ∃ t : NodeTree, t.IsTreeOf f (buildTree f A slots).1 (buildTree f A slots).2 := by
  have hle := numPresent_le f
  have hempty : Builder.Forest { arena := A, heap := { slots := slots, n := 0 } } [] 0 [] :=
    ⟨.refl _, by simp, .refl _, .refl _⟩
  obtain ⟨us, hus⟩ := hempty.addLeaves f (presentSyms f) (by simpa [numPresent] using hle)
  have hlen := hus.length_add
  simp only [List.append_nil, List.length_reverse, Nat.add_zero] at hlen
  obtain ⟨t, ht⟩ := hus.mergeAll (fuel := (presentSyms f).length)
    (List.ne_nil_of_length_pos (by rw [hlen]; exact Nat.pos_of_ne_zero hn)) (by simpa [numPresent] using hle) (by omega)
  have hroot := ht.ids
  rw [Heap.ids, ht.heap_n] at hroot
  refine ⟨t, ?_, ht.held t (by simp), ?_, ?_⟩
  · exact (List.singleton_perm_singleton.1 hroot).symm
  · simpa [internalIds, numPresent] using ht.inner
  · exact (by simpa using ht.leaves : t.leaves.Perm _).trans (List.reverse_perm _)

/-- The root BUILD leaves names a node of its tree: a present leaf or a merge (R37, R126). -/
theorem NodeTree.IsTreeOf.root_valid {t : NodeTree} {f : Vector Word 256} {A : Arena} {root : NodeId}
    (h : t.IsTreeOf f A root) :
    (if isLeafId root then present f (leafSym root) else decide (root.toNat ≤ 254 + numPresent f)) = true := by
  obtain ⟨rfl, hheld, hinner, hleaves⟩ := h
  cases t with
  | leaf sym =>
    have := mem_presentSyms.1 (hleaves.subset (List.mem_singleton.2 rfl))
    simpa [NodeTree.root, present] using this
  | node id l r =>
    have hid : id ∈ internalIds (numPresent f) := hinner.subset (by simp [NodeTree.inner])
    obtain ⟨k, hk, rfl⟩ := List.mem_map.1 hid
    have := numPresent_le f
    rw [List.mem_range] at hk
    simp [NodeTree.root, isLeafId_mergeId (k := k) (by omega), mergeId_toNat (k := k) (by omega)]
    omega

/-! ### GENCODES gives a code to the leaves of the tree -/

/-- The assign recursion of R140 on a tree, the left subtree first. -/
def NodeTree.writeCodes : NodeTree → Nat → Nat → CodeTable → CodeTable
  | .leaf sym, v, d, T => T.set sym (BitVec.ofNat 8 d) (BitVec.ofNat 255 v)
  | .node _ l r, v, d, T => r.writeCodes (2 * v + 1) (d + 1) (l.writeCodes (2 * v) (d + 1) T)

/-- On a tree that the arena lays out and the bound reaches, assign follows the tree (R140). -/
theorem assign_eq_writeCodes {A : Arena} {t : NodeTree} (ht : t.heldBy A) {fuel : Nat} (hd : t.depth < fuel)
    (v d : Nat) (T : CodeTable) : assign A fuel t.root v d T = t.writeCodes v d T := by
  induction t generalizing fuel v d T with
  | leaf sym =>
    obtain ⟨fuel, rfl⟩ := Nat.exists_eq_succ_of_ne_zero (Nat.ne_zero_of_lt hd)
    simp [assign, NodeTree.root, NodeTree.writeCodes]
  | node id l r ihl ihr =>
    obtain ⟨fuel, rfl⟩ := Nat.exists_eq_succ_of_ne_zero (Nat.ne_zero_of_lt hd)
    obtain ⟨hid, hl, hr, htl, htr⟩ := ht
    simp only [NodeTree.depth, Nat.succ_eq_add_one, Nat.add_lt_add_iff_right, max_lt_iff] at hd
    rw [NodeTree.root, assign, hid, hl, hr, ihl htl hd.1, ihr htr hd.2]
    rfl

/-- A symbol that is no leaf keeps its entry. -/
theorem lenOf_writeCodes_of_notMem {t : NodeTree} {sym : Sym} (h : sym ∉ t.leaves) (v d : Nat) (T : CodeTable) :
    (t.writeCodes v d T).lenOf sym = T.lenOf sym := by
  induction t generalizing v d T with
  | leaf a =>
    have : a ≠ sym := by simpa [NodeTree.leaves, eq_comm] using h
    simp [NodeTree.writeCodes, lenOf_set, this]
  | node id l r ihl ihr =>
    simp only [NodeTree.leaves, List.mem_append, not_or] at h
    simp [NodeTree.writeCodes, ihl h.1, ihr h.2]

/-- A leaf's code is as long as a path of the tree, from depth d on, which is longer than d below an
internal node (R140). -/
theorem lenOf_writeCodes_of_mem {t : NodeTree} {sym : Sym} (h : sym ∈ t.leaves) (v d : Nat) (T : CodeTable) :
    ∃ e, d + min 1 t.depth ≤ e ∧ e ≤ d + t.depth ∧ (t.writeCodes v d T).lenOf sym = BitVec.ofNat 8 e := by
  induction t generalizing v d T with
  | leaf a =>
    obtain rfl : sym = a := by simpa [NodeTree.leaves] using h
    exact ⟨d, by simp [NodeTree.depth], by simp, by simp [NodeTree.writeCodes, lenOf_set]⟩
  | node id l r ihl ihr =>
    simp only [NodeTree.depth, NodeTree.writeCodes]
    by_cases hr : sym ∈ r.leaves
    · obtain ⟨e, hde, hed, he⟩ := ihr hr (2 * v + 1) (d + 1) (l.writeCodes (2 * v) (d + 1) T)
      exact ⟨e, by omega, by omega, he⟩
    · have hl : sym ∈ l.leaves := by simpa [NodeTree.leaves, hr] using h
      obtain ⟨e, hde, hed, he⟩ := ihl hl (2 * v) (d + 1) T
      exact ⟨e, by omega, by omega, (lenOf_writeCodes_of_notMem hr _ _ _).trans he⟩

/-- GENCODES on a tree of one leaf: the code "0" (R141). -/
theorem genTable_of_leaf {a : Sym} {f : Vector Word 256} {A : Arena} {root : NodeId}
    (h : (NodeTree.leaf a).IsTreeOf f A root) : genTable A root = CodeTable.empty.set a 1#8 0#255 := by
  rw [← h.root_eq, genTable, NodeTree.root, if_pos (isLeafId_leafId a), leafSym_leafId]

/-- The tree is at most 255 levels deep, as it has at most 256 leaves (R6). -/
theorem NodeTree.IsTreeOf.depth_le {t : NodeTree} {f : Vector Word 256} {A : Arena} {root : NodeId}
    (h : t.IsTreeOf f A root) : t.depth ≤ 255 := by
  have hlen : t.leaves.length ≤ 256 := h.leaves.length_eq.trans_le (numPresent_le f)
  have := t.depth_lt_length_leaves
  omega

/-- GENCODES on a tree of two or more leaves: the recursion from the root (R140). -/
theorem genTable_of_node {id : NodeId} {l r : NodeTree} {f : Vector Word 256} {A : Arena} {root : NodeId}
    (h : (NodeTree.node id l r).IsTreeOf f A root) :
    genTable A root = (NodeTree.node id l r).writeCodes 0 0 .empty := by
  have hdepth := h.depth_le
  have hid : ¬ isLeafId (NodeTree.node id l r).root = true := by simp [NodeTree.root, h.held.1]
  rw [← h.root_eq, genTable, if_neg hid, assign_eq_writeCodes h.held (by omega)]

/-- GENCODES gives a code to the present symbols and to no other (R43, R140, R141). -/
theorem lenOf_genTable_ne_zero_iff {t : NodeTree} {f : Vector Word 256} {A : Arena} {root : NodeId}
    (h : t.IsTreeOf f A root) (sym : Sym) : (genTable A root).lenOf sym ≠ 0#8 ↔ freqOf f sym ≠ 0#32 := by
  rw [← mem_presentSyms, ← h.leaves.mem_iff]
  cases t with
  | leaf a => simp [genTable_of_leaf h, lenOf_set, NodeTree.leaves, eq_comm]
  | node id l r =>
    rw [genTable_of_node h]
    constructor
    · exact fun hne => by_contra fun hmem => hne (by rw [lenOf_writeCodes_of_notMem hmem, lenOf_empty])
    · intro hmem
      obtain ⟨e, hpos, hle, he⟩ := lenOf_writeCodes_of_mem hmem 0 0 .empty
      have := h.depth_le
      simp only [NodeTree.depth] at hpos
      rw [he]
      intro hzero
      have := congrArg BitVec.toNat hzero
      simp at this
      omega

end Sys2Proof.Machine
end

section
/-! SUPPORT. What a step and a performed command can do, each said once in the words of Safety.lean (spec/40_control.md
R90 to R102). -/

namespace Sys2Proof.Machine

/-! ### What a step does, in the words of the statements -/

/-- One step from s (R90), with what completes at it: the block waits (idle, or a held command: R98, R189), takes an
illegal word, ignores a command (R96), records a command's error, performs a command; or a reset, a host read or a host
write comes. Each is on s with the event taken off the schedule. -/
inductive StepEffect (s : State) : State → Prop where
  | waits : s.completing = none → s.resetNext = false →
      StepEffect s { s with schedule := s.schedule.tail }
  | illegal : s.completing = none → s.resetNext = false →
      StepEffect s (runIllegal { s with schedule := s.schedule.tail })
  | ignored (i : Instr) : s.completing = some i → s.resetNext = false → s.err = true → i ≠ .clear →
      StepEffect s (State.finish { s with schedule := s.schedule.tail })
  | fails (i : Instr) (c : ErrCode) : s.completing = some i → s.resetNext = false → s.err = false → c ≠ .noError →
      StepEffect s (State.raise { s with schedule := s.schedule.tail } c)
  | performs (i : Instr) (u : State) : s.completing = some i → s.resetNext = false → (s.err = false ∨ i = .clear) →
      s.held i = false → phaseError i s.phase = none →
      performOf i { s with schedule := s.schedule.tail } = .ok u → StepEffect s u.finish
  | reset : s.completing = none → s.resetNext = true →
      StepEffect s (resetEvent { s with schedule := s.schedule.tail })
  | reads (idx : BitVec 4) : s.completing = none → s.resetNext = false →
      StepEffect s (State.mmioRead { s with schedule := s.schedule.tail } idx)
  | writes (idx : BitVec 4) (d : Nat) (w : Word) : s.completing = none → s.resetNext = false →
      StepEffect s (State.mmioWrite { s with schedule := s.schedule.tail, draws := d } idx w)

/-- CLEAR is the one command performed under ERR = 1 (R96). -/
theorem performedUnderError_iff {i : Instr} : performedUnderError i = true ↔ i = .clear := by
  cases i <;> simp [performedUnderError]

/-- The phase table lets a command run exactly in the phases its row allows (R97). -/
theorem phaseError_eq_none_iff {i : Instr} {p : Phase} : phaseError i p = none ↔ p ∈ allowedPhases i := by
  cases i <;> cases p <;> simp [phaseError, allowedPhases]

/-- The phase table records an error code (R97), and never against CLEAR. -/
theorem phaseError_some {i : Instr} {p : Phase} {c : ErrCode} (h : phaseError i p = some c) :
    c ≠ .noError ∧ i ≠ .clear := by
  cases i <;> cases p <;> cases h <;> simp

/-- The errors the commands themselves record (R178). -/
theorem performOf_error_cases {i : Instr} {s : State} {c : ErrCode} (h : performOf i s = .error c) :
    (∃ sym, i = .count sym ∧ freqOf s.freq sym = 0xFFFFFFFF#32 ∧ c = .freqOverflow) ∨
    (i = .build ∧ numPresent s.freq = 0 ∧ c = .emptyInput) ∨
    (∃ node fld, i = .readnode node fld ∧ s.nodeWord node fld = none ∧ c = .illegalCmd) ∨
    (∃ sym, i = .encode sym ∧ (s.codes.lenOf sym).toNat = 0 ∧ c = .unknownSymbol) ∨
    (i = .abort ∧ c = .ioFailure) := by
  cases i with
  | nop | clear | setfreq | readfreq | gencodes | readlen | readcode | flush => cases h
  | count sym =>
    by_cases hmax : freqOf s.freq sym = 0xFFFFFFFF#32
    · simp only [performOf, performCount, if_pos hmax] at h
      cases h
      simpa using hmax
    · simp only [performOf, performCount, if_neg hmax] at h
      cases h
  | build =>
    by_cases hn : numPresent s.freq = 0
    · have hb : performBuild s = .error .emptyInput := if_pos hn
      cases hb.symm.trans h
      simpa using hn
    · have hb : ∃ u, performBuild s = .ok u := ⟨_, if_neg hn⟩
      obtain ⟨u, hb⟩ := hb
      cases hb.symm.trans h
  | readnode node fld =>
    cases hw : s.nodeWord node fld <;> simp only [performOf, performReadnode, hw] at h <;> cases h
    simpa using hw
  | encode sym =>
    by_cases hlen : (s.codes.lenOf sym).toNat = 0
    · simp only [performOf, performEncode, if_pos hlen] at h
      cases h
      simpa using hlen
    · simp only [performOf, performEncode, if_neg hlen] at h
      cases h
  | abort => cases h; simp

/-- A command's own error is an error code of R175, and CLEAR has none. -/
theorem performOf_error {i : Instr} {s : State} {c : ErrCode} (h : performOf i s = .error c) :
    c ≠ .noError ∧ i ≠ .clear := by
  rcases performOf_error_cases h with ⟨_, rfl, -, rfl⟩ | ⟨rfl, -, rfl⟩ | ⟨_, _, rfl, -, rfl⟩ | ⟨_, rfl, -, rfl⟩ |
    ⟨rfl, rfl⟩ <;> simp

/-- Every step is one of these. -/
theorem step_effect {s t : State} (h : step s = .next t) : StepEffect s t := by
  rcases step_kinds h with ⟨hturn, hreset, -, h⟩ | ⟨hturn, hreset, rfl⟩ | ⟨hturn, hreset, idx, rfl⟩ |
    ⟨hturn, hreset, idx, d, w, rfl⟩
  · rcases blockStep_cases h with ⟨hbusy, rfl⟩ | ⟨e, hbusy, hdec, rfl⟩ | ⟨i, hbusy, hdec, rfl⟩
    · refine .waits ?_ hreset
      simp only at hbusy
      simp [State.completing, hbusy]
    · refine .illegal ?_ hreset
      simp only at hbusy hdec
      simp [State.completing, hbusy, hdec]
    · have hcomp := fun hheld => completing_eq hturn hbusy hdec hheld
      rcases runCommand_cases i (performOf i) { s with schedule := s.schedule.tail } with
        ⟨hheld, he⟩ | ⟨hheld, herr, hclear, he⟩ | ⟨c, hheld, herr, hphase, he⟩ | ⟨c, hheld, herr, hphase, hperf, he⟩ |
        ⟨u, hheld, herr, hphase, hperf, he⟩ <;>
      rw [held_schedule] at hheld <;> rw [he]
      · exact .waits (by simp only at hbusy hdec; simp [State.completing, hbusy, hdec, hheld]) hreset
      · refine .ignored i (hcomp hheld) hreset herr fun e => ?_
        simp [performedUnderError_iff.2 e] at hclear
      · obtain ⟨hc, hi⟩ := phaseError_some hphase
        exact .fails i c (hcomp hheld) hreset (herr.resolve_right (hi ∘ performedUnderError_iff.1)) hc
      · obtain ⟨hc, hi⟩ := performOf_error hperf
        exact .fails i c (hcomp hheld) hreset (herr.resolve_right (hi ∘ performedUnderError_iff.1)) hc
      · exact .performs i u (hcomp hheld) hreset (herr.imp_right performedUnderError_iff.1) hheld hphase hperf
  · exact .reset (completing_eq_none hturn) hreset
  · exact .reads idx (completing_eq_none hturn) hreset
  · exact .writes idx d w (completing_eq_none hturn) hreset

/-! ### What a performed command writes -/

/-- The state each command leaves when it is performed, before BUSY falls (R99 to R156). -/
inductive Performed (s : State) : Instr → State → Prop where
  | nop : Performed s .nop s
  | clear : Performed s .clear s.initRun
  | count (sym : Sym) : Performed s (.count sym) (s.setFreq sym (freqOf s.freq sym + 1#32))
  | setfreq (sym : Sym) : Performed s (.setfreq sym) (s.setFreq sym s.pendArg)
  | readfreq (sym : Sym) : Performed s (.readfreq sym) { s with result := freqOf s.freq sym }
  | build : numPresent s.freq ≠ 0 →
      Performed s .build { s with
        arena := (buildTree s.freq s.arena s.heap).1, root := (buildTree s.freq s.arena s.heap).2
        nLeaves := BitVec.ofNat 9 (numPresent s.freq), phase := .tree
        heap := Config.freeHeap s.draws, heapN := Config.freeHeapN s.draws, draws := s.draws + 1 }
  | gencodes : Performed s .gencodes { s with codes := genTable s.arena s.root, phase := .codes }
  | readlen (sym : Sym) : Performed s (.readlen sym) { s with result := (s.codes.lenOf sym).setWidth 32 }
  | readcode (sym : Sym) (wrd : BitVec 3) :
      Performed s (.readcode sym wrd) { s with result := codeWord (s.codes.valOf sym) wrd }
  | readnode (node : NodeId) (fld : BitVec 2) (w : Word) : s.nodeWord node fld = some w →
      Performed s (.readnode node fld) { s with result := w }
  | encode (sym : Sym) (len total bits : Nat) : (s.codes.lenOf sym).toNat = len → len ≠ 0 →
      s.accCnt.toNat + len = total → packBits s.acc len (s.codes.valOf sym) = bits →
      Performed s (.encode sym) { s with
        outq := s.outq ++ wholeBytes bits total
        acc := BitVec.ofNat 8 (bits % 2 ^ (total % 8)), accCnt := BitVec.ofNat 3 (total % 8)
        bitcnt := s.bitcnt + BitVec.ofNat 64 len }
  | flush : Performed s .flush { s with
      outq := s.outq ++ lastByte s.acc s.accCnt.toNat, acc := 0#8, accCnt := 0#3, phase := .done }

/-- What a command's body answers is the state Performed names. -/
theorem performed_of_ok {i : Instr} {s u : State} (h : performOf i s = .ok u) : Performed s i u := by
  cases i with
  | nop => cases h; exact .nop
  | clear => cases h; exact .clear
  | count sym => obtain ⟨-, rfl⟩ := performCount_ok h; exact .count sym
  | setfreq sym => cases h; exact .setfreq sym
  | readfreq sym => cases h; exact .readfreq sym
  | build => obtain ⟨hn, rfl⟩ := performBuild_ok h; exact .build hn
  | gencodes => cases h; exact .gencodes
  | readlen sym => cases h; exact .readlen sym
  | readcode sym wrd => cases h; exact .readcode sym wrd
  | readnode node fld => obtain ⟨w, hw, rfl⟩ := performReadnode_ok h; exact .readnode node fld w hw
  | encode sym =>
    have hlen := (performEncode_ok h).1
    have hmod : ∀ n, n - 8 * (n / 8) = n % 8 := by omega
    have hu : performEncode sym s = .ok u := h
    simp only [performEncode, if_neg hlen, hmod] at hu
    cases hu
    exact .encode sym _ _ _ rfl hlen rfl rfl
  | flush => cases h; exact .flush
  | abort => cases h

/-- The phase a performed command leaves (R27). -/
def phaseAfter : Instr → Phase → Phase
  | .clear, _ => .load
  | .build, _ => .tree
  | .gencodes, _ => .codes
  | .flush, _ => .done
  | _, p => p

theorem Performed.phase_eq {i : Instr} {s u : State} (h : Performed s i u) : u.phase = phaseAfter i s.phase := by
  cases h <;> rfl

/-- A performed command leaves the error state as it was, but for CLEAR (R44). -/
theorem Performed.err_eq {i : Instr} {s u : State} (h : Performed s i u) :
    (i = .clear ∧ u.err = false ∧ u.errcode = .noError) ∨ (i ≠ .clear ∧ u.err = s.err ∧ u.errcode = s.errcode) := by
  cases h <;> simp

/-- The commands that write FREQ (R34). -/
theorem Performed.freq_eq {i : Instr} {s u : State} (h : Performed s i u) :
    u.freq = s.freq ∨ i = .clear ∨ ∃ sym, i = .count sym ∨ i = .setfreq sym := by
  cases h <;> simp

/-- The commands that write RESULT (R32). -/
theorem Performed.result_eq {i : Instr} {s u : State} (h : Performed s i u) :
    u.result = s.result ∨ i = .clear ∨ (∃ sym, i = .readfreq sym) ∨ (∃ sym, i = .readlen sym) ∨
      (∃ sym wrd, i = .readcode sym wrd) ∨ ∃ node fld, i = .readnode node fld := by
  cases h <;> simp

/-! ### What a step leaves alone when it performs no command -/

/-- The part of the state that only a performed command or a reset writes: the tables, the tree, RESULT, PHASE, the
packer and the bytes pushed in this run, popped or not. -/
def State.content (s : State) : State :=
  { s with
    busy := false, err := false, errcode := .noError, arg := 0#32, pendCmd := 0#32, pendArg := 0#32
    outq := s.pushedBytes, hostOut := [], schedule := [], rdata := 0#32, draws := 0 }

theorem content_pop (s : State) : s.pop.content = s.content := by
  unfold State.pop
  split
  · rfl
  · simp [State.content, State.pushedBytes, *]

theorem content_overrun (s : State) : s.overrun.content = s.content := by
  unfold State.overrun
  split <;> rfl

/-- How a step that performs no command and is no reset leaves the block: only the bus, the latch and the error state
move, OUTQ is at most popped, and a command that completes does so with ERR = 1. -/
structure Unperformed (s t : State) : Prop where
  content   : t.content = s.content
  outq_le   : t.outq.length ≤ s.outq.length
  completes : s.completing ≠ none → t.err = true
  error     : (t.err = s.err ∧ t.errcode = s.errcode) ∨ (t.err = true ∧ s.err = false ∧ t.errcode ≠ .noError)

namespace Unperformed

variable {s t : State} (h : Unperformed s t)
include h

theorem phase : t.phase = s.phase := (congrArg State.phase h.content : _)
theorem freq : t.freq = s.freq := (congrArg State.freq h.content : _)
theorem result : t.result = s.result := (congrArg State.result h.content : _)
theorem arena : t.arena = s.arena := (congrArg State.arena h.content : _)
theorem root : t.root = s.root := (congrArg State.root h.content : _)
theorem nLeaves : t.nLeaves = s.nLeaves := (congrArg State.nLeaves h.content : _)
theorem codes : t.codes = s.codes := (congrArg State.codes h.content : _)
theorem acc : t.acc = s.acc := (congrArg State.acc h.content : _)
theorem accCnt : t.accCnt = s.accCnt := (congrArg State.accCnt h.content : _)
theorem bitcnt : t.bitcnt = s.bitcnt := (congrArg State.bitcnt h.content : _)
theorem pushedBytes : t.pushedBytes = s.pushedBytes := (congrArg State.outq h.content : _)

end Unperformed

theorem unperformed_read {s : State} (hn : s.completing = none) (e : List Event) (idx : BitVec 4) :
    Unperformed s (State.mmioRead { s with schedule := e } idx) := by
  unfold State.mmioRead
  split_ifs
  · exact ⟨content_pop { s with schedule := e }, by simp, absurd hn, .inl (by simp)⟩
  · exact ⟨rfl, le_rfl, absurd hn, .inl ⟨rfl, rfl⟩⟩

theorem unperformed_write {s : State} (hn : s.completing = none) (e : List Event) (d : Nat) (idx : BitVec 4)
    (w : Word) : Unperformed s (State.mmioWrite { s with schedule := e, draws := d } idx w) := by
  rcases mmioWrite_cases { s with schedule := e, draws := d } idx w with
    ⟨-, -, he⟩ | ⟨-, -, he⟩ | ⟨-, he⟩ | ⟨-, -, he⟩ <;> rw [he]
  · refine ⟨content_overrun _, by simp, absurd hn, ?_⟩
    cases herr : s.err <;> simp [State.overrun_errcode]
  · exact ⟨rfl, le_rfl, absurd hn, .inl ⟨rfl, rfl⟩⟩
  · exact ⟨rfl, le_rfl, absurd hn, .inl ⟨rfl, rfl⟩⟩
  · exact ⟨rfl, le_rfl, absurd hn, .inl ⟨rfl, rfl⟩⟩

theorem unperformed_illegal {s : State} (hn : s.completing = none) (e : List Event) :
    Unperformed s (runIllegal { s with schedule := e }) := by
  unfold runIllegal
  split_ifs with herr
  · exact ⟨rfl, le_rfl, absurd hn, .inl ⟨rfl, rfl⟩⟩
  · exact ⟨rfl, le_rfl, absurd hn, .inr ⟨rfl, by simpa using herr, by simp⟩⟩

/-- A step performs nothing, performs the command that completes, or is a reset. -/
theorem StepEffect.cases {s t : State} (h : StepEffect s t) :
    (s.resetNext = false ∧ Unperformed s t) ∨
    (∃ i u, s.completing = some i ∧ s.resetNext = false ∧ (s.err = false ∨ i = .clear) ∧ s.held i = false ∧
      phaseError i s.phase = none ∧ Performed { s with schedule := s.schedule.tail } i u ∧ t = u.finish) ∨
    (s.completing = none ∧ s.resetNext = true ∧ t = State.initRun { s with schedule := s.schedule.tail }) := by
  cases h with
  | waits hn hr => exact .inl ⟨hr, rfl, le_rfl, absurd hn, .inl ⟨rfl, rfl⟩⟩
  | illegal hn hr => exact .inl ⟨hr, unperformed_illegal hn _⟩
  | ignored i hi hr he hc => exact .inl ⟨hr, rfl, le_rfl, fun _ => he, .inl ⟨rfl, rfl⟩⟩
  | fails i c hi hr he hc => exact .inl ⟨hr, rfl, le_rfl, fun _ => rfl, .inr ⟨rfl, he, hc⟩⟩
  | performs i u hi hr he hh hp hu => exact .inr (.inl ⟨i, u, hi, hr, he, hh, hp, performed_of_ok hu, rfl⟩)
  | reset hn hr => exact .inr (.inr ⟨hn, hr, rfl⟩)
  | reads idx hn hr => exact .inl ⟨hr, unperformed_read hn _ _⟩
  | writes idx d w hn hr => exact .inl ⟨hr, unperformed_write hn _ _ _ _⟩

end Sys2Proof.Machine
end

section
/-! PROOFS. The register window, and what a step can change (spec/10_state.md). -/

namespace Sys2Proof.Machine

/-! ### Register words as numbers -/

/-- Putting a bit vector below another is arithmetic. -/
theorem toNat_append_arith {m n : Nat} (a : BitVec m) (b : BitVec n) : (a ++ b).toNat = a.toNat * 2 ^ n + b.toNat := by
  rw [BitVec.toNat_append, ← Nat.shiftLeft_add_eq_or_of_lt b.isLt, Nat.shiftLeft_eq]

/-- STATUS as a number (R25). -/
theorem statusWord_toNat (s : State) :
    s.statusWord.toNat =
      256 * s.accCnt.toNat + 4 * s.phase.bits.toNat + 2 * (if s.err then 1 else 0) + (if s.busy then 1 else 0) := by
  have h : s.statusWord.toNat =
      (0#21 ++ s.accCnt ++ 0#3 ++ s.phase.bits ++ BitVec.ofBool s.err ++ BitVec.ofBool s.busy).toNat := rfl
  simp only [h, toNat_append_arith, BitVec.toNat_ofBool, BitVec.toNat_ofNat, Bool.toNat]
  cases s.err <;> cases s.busy <;> simp <;> omega

/-- ERRCODE as a number (R30). -/
theorem errcodeWord_toNat (s : State) : s.errcodeWord.toNat = s.errcode.bits.toNat := by
  have h : s.errcodeWord.toNat = (0#28 ++ s.errcode.bits).toNat := rfl
  simp only [h, toNat_append_arith]
  simp

/-- TREEINFO as a number (R35). -/
theorem treeinfoWord_toNat (s : State) : s.treeinfoWord.toNat = 65536 * s.nLeaves.toNat + s.root.toNat := by
  have h : s.treeinfoWord.toNat = (0#7 ++ s.nLeaves ++ 0#7 ++ s.root).toNat := rfl
  simp only [h, toNat_append_arith]
  simp
  omega

/-- OUTDATA as a number (R157). -/
theorem outdataWord_toNat (s : State) :
    s.outdataWord.toNat = match s.outq with | [] => 0 | b :: _ => 256 + b.toNat := by
  unfold State.outdataWord
  cases s.outq with
  | nil => rfl
  | cons b q =>
    have h : (0#23 ++ 1#1 ++ b : Word).toNat = (0#23 ++ 1#1 ++ b).toNat := rfl
    simp only [h, toNat_append_arith]
    simp

/-- OUTLEVEL as a number, of a queue the block can hold (R40, R158). -/
theorem outlevelWord_toNat (s : State) (hq : s.outq.length ≤ 64) : s.outlevelWord.toNat = s.outq.length := by
  have h : s.outlevelWord.toNat = (0#25 ++ BitVec.ofNat 7 s.outq.length).toNat := rfl
  simp only [h, toNat_append_arith]
  simp
  omega

/-- The offsets above BITCNT_HI are reserved and read 0 (R22, R23). -/
theorem readReg_reserved (s : State) (idx : BitVec 4) (h : 0xB ≤ idx.toNat) : s.readReg idx = 0#32 := by
  have hfive : ∀ idx : BitVec 4, 0xB ≤ idx.toNat →
      idx = 0xB#4 ∨ idx = 0xC#4 ∨ idx = 0xD#4 ∨ idx = 0xE#4 ∨ idx = 0xF#4 := by decide
  rcases hfive idx h with rfl | rfl | rfl | rfl | rfl <;> rfl

/-! ### Tier 1: reset and the register window -/

/-- Settles O1: the tables read 0 at every symbol, the registers by definition. -/
theorem resetStateValues : Obligations.ResetStateValues := by
  refine ⟨rfl, rfl, rfl, rfl, rfl, rfl, rfl, rfl, fun sym => ?_, rfl, rfl, fun sym => ?_, fun sym => ?_, rfl, rfl⟩
  · exact freqOf_replicate 0#32 sym
  · exact lenOf_empty sym
  · exact valOf_empty sym

/-- Settles O3: register 0 reads a constant. -/
theorem idReadsConstant : Obligations.IdReadsConstant := fun _ => ⟨rfl, rfl⟩

/-- Settles O4, register by register. -/
theorem registerReadValues : Obligations.RegisterReadValues := by
  intro s
  have hlo : (s.bitcnt.extractLsb' 0 32).toNat = s.bitcnt.toNat % 2 ^ 32 := by simp
  have hhi : (s.bitcnt.extractLsb' 32 32).toNat = s.bitcnt.toNat / 2 ^ 32 := by
    have := s.bitcnt.isLt
    simp [Nat.shiftRight_eq_div_pow]
    omega
  have hload : Rule43 s → s.phase = .load → s.treeinfoWord = 0#32 := by
    intro hinv hp
    obtain ⟨hn, hr, -⟩ := hinv.in_load hp
    exact BitVec.eq_of_toNat_eq (by simp [treeinfoWord_toNat, hn, hr])
  exact ⟨rfl, (statusWord_toNat s).trans (by cases s.phase <;> rfl),
    (errcodeWord_toNat s).trans (by cases s.errcode <;> rfl), rfl, rfl, rfl, outdataWord_toNat s,
    outlevelWord_toNat s, treeinfoWord_toNat s, hload, hlo, hhi, readReg_reserved s⟩

/-- Settles O9: of the registers only CMD and ARG take a write. -/
theorem writesBesideCmd : Obligations.WritesBesideCmd := by
  intro s addr data rest hs hw hcmd
  have hstep : step s = .next (State.mmioWrite { s with schedule := rest } (regIndex addr) data) := by
    simp [step, runEvent, hs, hostWrite, hw]
  rcases mmioWrite_cases { s with schedule := rest } (regIndex addr) data with
    ⟨h3, -, -⟩ | ⟨h3, -, -⟩ | ⟨h4, he⟩ | ⟨-, h4, he⟩
  · exact absurd h3 hcmd
  · exact absurd h3 hcmd
  · exact ⟨fun _ => hstep.trans (by rw [he]), fun hne => absurd h4 hne⟩
  · exact ⟨fun h => absurd h h4, fun _ => hstep.trans (by rw [he])⟩

/-! ### Tier 2: what a step can change -/

/-- STATUS shows the phase in bits 4 to 2 (R25). -/
theorem readReg_status_phase (s : State) : (s.readReg 1#4).toNat / 4 % 8 = s.phase.bits.toNat := by
  have hword : (s.readReg 1#4).toNat = _ := statusWord_toNat s
  have := s.phase.bits.isLt
  rw [hword]
  split_ifs <;> omega

/-- A command that completes leaves ERR = 0 only when it is performed (R94, R96). -/
theorem Unperformed.completing_eq_none {s t : State} (h : Unperformed s t) (ht : t.err = false) :
    s.completing = none := by
  by_contra hc
  simp [h.completes hc] at ht

/-- A performed command leaves ERR = 0 (R94, R100). -/
theorem Performed.err_eq_false {i : Instr} {s u : State} (h : Performed s i u) (hs : s.err = false ∨ i = .clear) :
    u.err = false := by
  rcases h.err_eq with ⟨-, he, -⟩ | ⟨hne, he, -⟩
  · exact he
  · exact he.trans (hs.resolve_right hne)

/-- Settles O24: only a performed command or a reset writes PHASE. -/
theorem phaseOrder : Obligations.PhaseOrder := by
  intro s t hstep
  refine and_assoc.1 ⟨?_, ?_, (readReg_status_phase t).trans (by cases t.phase <;> rfl)⟩
  · rcases (step_effect hstep).cases with ⟨-, hun⟩ | ⟨i, u, hi, -, herr, -, hphase, hp, rfl⟩ | ⟨hi, hreset, rfl⟩
    · exact ⟨fun hne => absurd hun.phase hne, fun he => by simp [hun.completing_eq_none he]⟩
    · have hafter : u.finish.phase = phaseAfter i s.phase := hp.phase_eq
      have hfrom := phaseError_eq_none_iff.1 hphase
      rw [hafter, hi]
      refine ⟨fun hne => ⟨hp.err_eq_false herr, ?_⟩, fun _ => ?_⟩
      · cases i with
        | build => exact .inl ⟨rfl, List.mem_singleton.1 hfrom, rfl⟩
        | gencodes => exact .inr (.inl ⟨rfl, List.mem_singleton.1 hfrom, rfl⟩)
        | flush => exact .inr (.inr (.inl ⟨rfl, List.mem_singleton.1 hfrom, rfl⟩))
        | clear => exact .inr (.inr (.inr (.inl ⟨rfl, rfl⟩)))
        | _ => exact absurd rfl hne
      · simp only [Option.some.injEq]
        refine ⟨?_, ?_, ?_, ?_⟩ <;> rintro rfl <;> rfl
    · exact ⟨fun _ => ⟨rfl, .inr (.inr (.inr (.inr ⟨hreset, rfl⟩)))⟩, by simp [hi]⟩
  · intro hreset
    rcases (step_effect hstep).cases with ⟨hr, -⟩ | ⟨i, u, -, hr, -⟩ | ⟨-, -, rfl⟩
    · simp [hr] at hreset
    · simp [hr] at hreset
    · rfl

/-- Settles O25: of the commands only COUNT and SETFREQ write FREQ, and the phase table allows them in LOAD alone. -/
theorem freqChangesOnlyInLoad : Obligations.FreqChangesOnlyInLoad := by
  intro s t hstep hne
  rcases (step_effect hstep).cases with ⟨-, hun⟩ | ⟨i, u, hi, -, herr, -, hphase, hp, rfl⟩ | ⟨-, hreset, -⟩
  · exact absurd hun.freq hne
  · rcases hp.freq_eq with he | rfl | ⟨sym, hsym⟩
    · exact absurd he hne
    · exact .inr (.inl hi)
    · have hload : s.phase = .load ∧ i ≠ .clear := by
        rcases hsym with rfl | rfl <;> cases hph : s.phase <;> simp [hph, phaseError] at hphase ⊢
      exact .inl ⟨hload.1, herr.resolve_right hload.2, sym, by simpa [hi] using hsym⟩
  · exact .inr (.inr hreset)

/-- Settles O26: of the commands only the four reads write RESULT. -/
theorem resultChangesOnlyByReads : Obligations.ResultChangesOnlyByReads := by
  intro s t hstep hne
  rcases (step_effect hstep).cases with ⟨-, hun⟩ | ⟨i, u, hi, -, herr, -, -, hp, rfl⟩ | ⟨-, hreset, -⟩
  · exact absurd hun.result hne
  · rcases hp.result_eq with he | rfl | hread
    · exact absurd he hne
    · exact .inr (.inl hi)
    · have hclear : i ≠ .clear := by rintro rfl; simp at hread
      have hs := herr.resolve_right hclear
      obtain ⟨hc, -⟩ | ⟨-, he, -⟩ := hp.err_eq
      · exact absurd hc hclear
      · exact .inl ⟨hs, he.trans hs, by simpa [hi] using hread⟩
  · exact .inr (.inr hreset)

/-- An empty queue has room for any command's bytes, as a code has at most 255 bits (R36). -/
theorem need_le_outqDepth {s : State} {i : Instr} {k : Nat} (h : s.need i = some k) : k ≤ 64 := by
  have hc := s.accCnt.isLt
  cases i with
  | encode sym =>
    have := (s.codes.lenOf sym).isLt
    simp only [State.need, Option.some.injEq] at h
    omega
  | flush =>
    simp only [State.need, Option.some.injEq] at h
    split_ifs at h <;> omega
  | _ => cases h

/-- A command is held only when it needs more room than OUTQ has (R98). -/
theorem held_eq_false_of_room {s : State} {i : Instr} (h : ∀ k, s.need i = some k → k + s.outq.length ≤ 64) :
    s.held i = false := by
  cases hn : s.need i with
  | none => exact held_eq_false_of_need hn
  | some k =>
    have hfits : ¬ Config.outqDepth < k + s.outq.length := Nat.not_lt.2 (h k hn)
    simp [State.held, hn, hfits]

/-- Every command that is not held ends with BUSY = 0 (R93, R102). -/
theorem runCommand_busy {s : State} {i : Instr} (p : State → Except ErrCode State) (h : s.held i = false) :
    (runCommand i p s).busy = false := by
  rcases runCommand_cases i p s with ⟨hh, -⟩ | ⟨-, -, -, he⟩ | ⟨_, -, -, -, he⟩ | ⟨_, -, -, -, -, he⟩ |
    ⟨_, -, -, -, -, he⟩
  · simp [h] at hh
  all_goals rw [he]; rfl

/-- Settles O30: with room no command is held. -/
theorem unheldCommandCompletes : Obligations.UnheldCommandCompletes := by
  intro i s hroom
  refine ⟨_, exec_runCommand i s, runCommand_busy _ (held_eq_false_of_room fun k hk => ?_)⟩
  rcases hroom with hempty | hroom
  · simpa [hempty] using need_le_outqDepth hk
  · cases i with
    | encode sym => exact Option.some.inj hk ▸ hroom
    | flush => exact Option.some.inj hk ▸ hroom
    | _ => cases hk

/-- An ENCODE or FLUSH performed in CODES has room for its bytes (R98). -/
theorem room_of_not_held {s : State} {i : Instr} {k : Nat} (hh : s.held i = false) (herr : s.err = false)
    (hp : s.phase = .codes) (hk : s.need i = some k) : k + s.outq.length ≤ 64 := by
  have hfits : ¬ Config.outqDepth < k + s.outq.length := by simpa [State.held, herr, hp, hk] using hh
  exact Nat.not_lt.1 hfits

/-- FLUSH pushes one byte exactly when bits are pending (R156). -/
theorem lastByte_length (acc : BitVec 8) (cnt : Nat) : (lastByte acc cnt).length = if cnt > 0 then 1 else 0 := by
  unfold lastByte
  split_ifs <;> rfl

/-- Settles O59. ENCODE keeps the bits below the last whole byte, and the hold keeps OUTQ within its depth (R98,
R155). -/
theorem packerBoundsKept : Obligations.PackerBoundsKept := by
  intro s t hacc hq hstep
  rcases (step_effect hstep).cases with ⟨-, hun⟩ | ⟨i, u, -, -, herr, hh, hphase, hp, rfl⟩ | ⟨-, -, rfl⟩
  · exact ⟨by rw [hun.acc, hun.accCnt]; exact hacc, hun.outq_le.trans hq⟩
  · cases hp with
    | encode sym len total bits hlen h0 htotal hbits =>
      have hcodes := List.mem_singleton.1 (phaseError_eq_none_iff.1 hphase)
      have hroom := room_of_not_held hh (herr.resolve_right (by simp)) hcodes rfl
      have hcnt : (BitVec.ofNat 3 (total % 8)).toNat = total % 8 := by simp
      have hrest : (BitVec.ofNat 8 (bits % 2 ^ (total % 8))).toNat < 2 ^ (total % 8) :=
        (BitVec.toNat_ofNat _ _).trans_lt ((Nat.mod_le _ _).trans_lt (Nat.mod_lt _ (by positivity)))
      subst hlen htotal
      exact ⟨by simpa [hcnt] using hrest, by simpa [Nat.add_comm] using hroom⟩
    | flush =>
      have hcodes := List.mem_singleton.1 (phaseError_eq_none_iff.1 hphase)
      have hroom := room_of_not_held hh (herr.resolve_right (by simp)) hcodes rfl
      exact ⟨by simp, by simpa [lastByte_length, Nat.add_comm] using hroom⟩
    | clear => simp
    | _ => exact ⟨hacc, hq⟩
  · simp

end Sys2Proof.Machine
end

section
/-! PROOFS. The invariants of spec/10_state.md R43. -/

namespace Sys2Proof.Machine

/-! ### The invariant -/

/-- A tree that BUILD made is laid out in the arena below ROOT (R126). -/
theorem State.treeBuilt.exists_isTreeOf {s : State} (h : s.treeBuilt) :
    ∃ t : NodeTree, t.IsTreeOf s.freq s.arena s.root := by
  obtain ⟨hn, -, A, slots, he⟩ := h
  simpa [he] using exists_isTreeOf_buildTree s.freq A slots hn

/-- What R43 says of the tree in TREE follows from BUILD having made it (R37, R125). -/
theorem State.treeBuilt.root_valid {s : State} (h : s.treeBuilt) (hp : s.phase ≠ .load) :
    s.nLeaves.toNat = numPresent s.freq ∧ 1 ≤ s.nLeaves.toNat ∧ s.validNode s.root = true := by
  obtain ⟨t, ht⟩ := h.exists_isTreeOf
  obtain ⟨hn, hleaves, -⟩ := h
  have hnum : s.nLeaves.toNat = numPresent s.freq := by rw [hleaves, numPresent_ofNat_toNat]
  refine ⟨hnum, by omega, ?_⟩
  rw [State.validNode, hnum, ht.root_valid]
  simpa using hp

/-- What R43 says of the code table follows from GENCODES having made it from BUILD's tree (R140). -/
theorem State.treeBuilt.lenOf_ne_zero_iff {s : State} (h : s.treeBuilt) (ht : s.codes = genTable s.arena s.root)
    (sym : Sym) : s.codes.lenOf sym ≠ 0#8 ↔ freqOf s.freq sym ≠ 0#32 := by
  obtain ⟨t, htree⟩ := h.exists_isTreeOf
  rw [ht]
  exact lenOf_genTable_ne_zero_iff htree sym

/-- The invariant reads only the content of the block, the length of OUTQ and the error state. -/
theorem Inv.of_unperformed {s t : State} (h : Inv s) (hun : Unperformed s t) : Inv t := by
  obtain ⟨⟨hacc, hq, hload, htree, hcodes, hdone⟩, herr, hbuilt, htable, hout⟩ := h
  refine ⟨⟨?acc, hun.outq_le.trans hq, ?load, ?tree, ?codes, ?done⟩, ?err, ?built, ?table, ?output⟩
  case err =>
    rcases hun.error with ⟨he, hc⟩ | ⟨he, -, hc⟩
    · rw [he, hc]; exact herr
    · simp [he, hc]
  all_goals
    simp only [State.validNode, State.treeBuilt, hun.phase, hun.freq, hun.arena, hun.root, hun.nLeaves, hun.codes,
      hun.acc, hun.accCnt, hun.bitcnt, hun.pushedBytes]
    assumption

/-- The state after a reset or a CLEAR meets the invariant (R44). -/
theorem inv_initRun (s : State) : Inv s.initRun where
  rule43 :=
    { acc_lt := by simp
      outq_le := by simp
      in_load := fun _ => ⟨rfl, rfl, fun sym => lenOf_empty sym, rfl⟩
      in_tree := by simp
      in_codes := by simp
      in_done := by simp }
  errcode := by simp
  tree := by simp
  table := by simp
  no_output := fun _ => ⟨rfl, rfl, rfl⟩

/-- The schedule, RESULT and BUSY are nothing to the invariant. -/
theorem Inv.frame {s : State} (h : Inv s) (e : List Event) (w : Word) (b : Bool) :
    Inv { s with schedule := e, result := w, busy := b } := by
  obtain ⟨⟨hacc, hq, hload, htree, hcodes, hdone⟩, herr, hbuilt, htable, hout⟩ := h
  exact ⟨⟨hacc, hq, hload, htree, hcodes, hdone⟩, herr, hbuilt, htable, hout⟩

/-- In LOAD the invariant does not look at FREQ: there is no tree and no code (R27, R43). -/
theorem Inv.setFreq {s : State} (h : Inv s) (hp : s.phase = .load) (sym : Sym) (v : Word) :
    Inv (s.setFreq sym v).finish := by
  obtain ⟨⟨hacc, hq, hload, -, -, hdone⟩, herr, -, -, hout⟩ := h
  exact ⟨⟨hacc, hq, hload, by simp [hp], by simp [hp], hdone⟩, herr, by simp [hp], by simp [hp], hout⟩

section
variable {s : State} (hacc : s.acc.toNat < 2 ^ s.accCnt.toNat) (hq : s.outq.length ≤ 64)
  (herr : s.err = true ↔ s.errcode ≠ .noError) (hbuilt : s.treeBuilt)
include hacc hq herr hbuilt

/-- What the invariant comes to in TREE: BUILD made the tree, and there is no code and no output. -/
theorem inv_of_tree (hp : s.phase = .tree) (hcode : ∀ sym, s.codes.lenOf sym = 0#8)
    (hout : s.pushedBytes = [] ∧ s.accCnt = 0#3 ∧ s.bitcnt = 0#64) : Inv s := by
  obtain ⟨hn, hpos, hvalid⟩ := hbuilt.root_valid (by simp [hp])
  exact ⟨⟨⟨hacc, Nat.le_of_lt_succ s.accCnt.isLt⟩, hq, by simp [hp], fun _ => ⟨hn, hpos, hvalid, hcode⟩, by simp [hp],
    by simp [hp]⟩, herr, fun _ => hbuilt, by simp [hp], fun _ => hout⟩

/-- What the invariant comes to in CODES and DONE: BUILD made the tree, GENCODES made the table, and DONE has no pending
bit. -/
theorem inv_of_codes (hp : s.phase = .codes ∨ s.phase = .done) (htable : s.codes = genTable s.arena s.root)
    (hdone : s.phase = .done → s.accCnt = 0#3) : Inv s := by
  have hload : s.phase ≠ .load := by rcases hp with hp | hp <;> simp [hp]
  have htree : s.phase ≠ .tree := by rcases hp with hp | hp <;> simp [hp]
  exact ⟨⟨⟨hacc, Nat.le_of_lt_succ s.accCnt.isLt⟩, hq, fun h => absurd h hload, fun h => absurd h htree,
    fun _ => hbuilt.lenOf_ne_zero_iff htable, hdone⟩, herr, fun _ => hbuilt, fun _ => htable,
    fun h => by simp [hload, htree] at h⟩

end

/-- A performed command keeps the invariant where the phase table allows it, if it keeps the packer's bounds (R43). -/
theorem Inv.performed {i : Instr} {s u : State} (h : Inv s) (hu : Performed s i u) (hp : phaseError i s.phase = none)
    (hacc : u.acc.toNat < 2 ^ u.accCnt.toNat) (hq : u.outq.length ≤ 64) : Inv u.finish := by
  have hfrom := phaseError_eq_none_iff.1 hp
  cases hu with
  | nop | readfreq | readlen | readcode | readnode => exact h.frame _ _ false
  | clear => exact inv_initRun s
  | count sym => exact h.setFreq (List.mem_singleton.1 hfrom) sym _
  | setfreq sym => exact h.setFreq (List.mem_singleton.1 hfrom) sym _
  | build hn =>
    have hload := List.mem_singleton.1 hfrom
    obtain ⟨-, -, hcode, -⟩ := h.rule43.in_load hload
    exact inv_of_tree hacc hq h.errcode ⟨hn, rfl, s.arena, s.heap, rfl⟩ rfl hcode (h.no_output (.inl hload))
  | gencodes =>
    have htree := List.mem_singleton.1 hfrom
    exact inv_of_codes hacc hq h.errcode (h.tree (by simp [htree])) (.inl rfl) rfl (fun e => by cases e)
  | encode sym =>
    have hcodes := List.mem_singleton.1 hfrom
    exact inv_of_codes hacc hq h.errcode (h.tree (by simp [hcodes])) (.inl hcodes) (h.table (.inl hcodes))
      (fun e => by simp [hcodes] at e)
  | flush =>
    have hcodes := List.mem_singleton.1 hfrom
    exact inv_of_codes hacc hq h.errcode (h.tree (by simp [hcodes])) (.inr rfl) (h.table (.inl hcodes)) (fun _ => rfl)

/-- Settles O57. A step that performs nothing leaves what the invariant reads; a performed command keeps it by what R43
rests on, the tree BUILD made and the table GENCODES made; a reset establishes it. -/
theorem invariantKept : Obligations.InvariantKept := by
  intro s t hinv hstep
  obtain ⟨hacc, hq⟩ := packerBoundsKept s t hinv.rule43.acc_lt.1 hinv.rule43.outq_le hstep
  rcases (step_effect hstep).cases with ⟨-, hun⟩ | ⟨i, u, -, -, -, -, hphase, hu, rfl⟩ | ⟨-, -, rfl⟩
  · exact hinv.of_unperformed hun
  · exact (hinv.frame _ _ _).performed hu hphase hacc hq
  · exact inv_initRun _

/-- Settles O58: LOAD with empty tables and no output. -/
theorem invariantAtReset : Obligations.InvariantAtReset where
  rule43 :=
    { acc_lt := by decide
      outq_le := by decide
      in_load := fun _ => ⟨rfl, rfl, fun sym => lenOf_empty sym, rfl⟩
      in_tree := fun h => by cases h
      in_codes := fun h => by rcases h with h | h <;> cases h
      in_done := fun h => by cases h }
  errcode := by decide
  tree := fun h => absurd rfl h
  table := fun h => by rcases h with h | h <;> cases h
  no_output := fun _ => ⟨rfl, rfl, rfl⟩

end Sys2Proof.Machine
end

section
/-! PROOFS. The host's accesses to the register window (spec/20_memory.md R51 to R55). -/

namespace Sys2Proof.Machine

/-! ### The window's addresses, and what an access does -/

/-- The window as a range of addresses (R51). -/
theorem inWindow_eq_true_iff {addr : Nat} :
    inWindow addr = true ↔ Config.hccBase ≤ addr ∧ addr ≤ Config.hccBase + 0x3F := by
  simp [inWindow]

theorem inWindow_eq_false {addr : Nat} (h : addr < Config.hccBase ∨ Config.hccBase + 0x3F < addr) :
    inWindow addr = false := by
  rw [← Bool.not_eq_true, inWindow_eq_true_iff]
  omega

/-- The low two address bits play no part in the register index (R54). -/
theorem regIndex_word (k : Nat) {j : Nat} (hj : j < 4) : regIndex (Config.hccBase + 4 * k + j) = BitVec.ofNat 4 k := by
  have hk : (Config.hccBase + 4 * k + j - Config.hccBase) / 4 = k := by omega
  rw [regIndex, hk]

section
variable {s : State} {addr : Nat} {size : Size} {data : Word} {rest : List Event}

/-- A step on a host read is that read, with the event taken off the order (R59). -/
theorem step_read (h : s.schedule = .read addr size :: rest) :
    step s = hostRead addr size { s with schedule := rest } := by
  simp [step, runEvent, h]

/-- A step on a host write is that write, with the event taken off the order (R59). -/
theorem step_write (h : s.schedule = .write addr size data :: rest) :
    step s = hostWrite addr size data { s with schedule := rest } := by
  simp [step, runEvent, h]

/-- A read in the window reads its register, whatever its size (R51, R52). -/
theorem hostRead_inside (s : State) (size : Size) (h : inWindow addr = true) :
    hostRead addr size s = .next (s.mmioRead (regIndex addr)) := by
  simp [hostRead, h]

theorem hostRead_outside (s : State) (size : Size) (h : inWindow addr = false) :
    hostRead addr size s = .refused .outsideWindow := by
  simp [hostRead, h]

theorem hostWrite_outside (s : State) (size : Size) (data : Word) (h : inWindow addr = false) :
    hostWrite addr size data s = .refused .outsideWindow := by
  simp [hostWrite, h]

/-- A narrow write is the 32-bit write of the next drawn word (R52, U11). -/
theorem hostWrite_narrow (s : State) (addr : Nat) (data : Word) (h : size ≠ .word) :
    hostWrite addr size data s =
      hostWrite addr .word (Config.freeBusWord s.draws) { s with draws := s.draws + 1 } := by
  cases size with
  | word => exact absurd rfl h
  | half | byte => rfl

end

/-- Only a read of OUTDATA has a side effect (R55). -/
theorem mmioRead_of_ne_outdata (s : State) {idx : BitVec 4} (h : idx ≠ 6#4) :
    s.mmioRead idx = { s with rdata := s.readReg idx } :=
  if_neg h

/-- No register shows the events to come. -/
@[simp] theorem readReg_schedule (s : State) (rest : List Event) (idx : BitVec 4) :
    ({ s with schedule := rest } : State).readReg idx = s.readReg idx := rfl

/-! ### Tier 1: the window, reads and narrow writes -/

/-- Settles O5: the offset is at most 4 * 15 + 3 = 0x3F, and divided by 4 it is k. -/
theorem addressSelectsRegister : Obligations.AddressSelectsRegister := by
  intro k j hk hj
  exact ⟨inWindow_eq_true_iff.2 (by omega), regIndex_word k hj⟩

/-- Settles O6, for a read and for a write. -/
theorem outsideWindowIsRefused : Obligations.OutsideWindowIsRefused := by
  intro s addr size data rest haddr hs
  have hout := inWindow_eq_false haddr
  rcases hs with hread | hwrite
  · exact (step_read hread).trans (hostRead_outside _ size hout)
  · exact (step_write hwrite).trans (hostWrite_outside _ size data hout)

/-- Settles O7: the read writes the bus answer alone, and the register does not depend on the events to come. -/
theorem readsAreIdempotent : Obligations.ReadsAreIdempotent := by
  intro s addr size rest hs hw hidx
  rw [step_read hs, hostRead_inside _ size hw, mmioRead_of_ne_outdata _ hidx, readReg_schedule]

/-- Settles O10: both steps are the same host write of the drawn word. -/
theorem narrowWriteDrawsWord : Obligations.NarrowWriteDrawsWord := by
  intro s addr size data rest hs _ hsize
  rw [step_write hs, hostWrite_narrow _ addr data hsize]
  symm
  exact step_write rfl

end Sys2Proof.Machine
end

section
/-! PROOFS. The command words: decoding and encoding undo each other, and each row of the opcode map is a condition on
the high bits of the word (spec/30_encoding.md R71 to R80). -/

namespace Sys2Proof

/-! ### Bit fields side by side -/

theorem append_eq_append_iff {m n : Nat} {a x : BitVec m} {b y : BitVec n} : x ++ y = a ++ b ↔ x = a ∧ y = b := by
  constructor
  · intro h
    have hhigh := congrArg (BitVec.extractLsb' n m) h
    have hlow := congrArg (BitVec.extractLsb' 0 n) h
    rw [BitVec.extractLsb'_append_eq_left, BitVec.extractLsb'_append_eq_left] at hhigh
    rw [BitVec.extractLsb'_append_eq_right, BitVec.extractLsb'_append_eq_right] at hlow
    exact ⟨hhigh, hlow⟩
  · rintro ⟨rfl, rfl⟩
    rfl

/-- A field is two fields side by side exactly when its high and its low part are. -/
theorem extractLsb'_eq_append_iff {v k m n : Nat} {w : BitVec v} {a : BitVec m} {b : BitVec n} :
    w.extractLsb' k (m + n) = a ++ b ↔ w.extractLsb' (k + n) m = a ∧ w.extractLsb' k n = b := by
  rw [← BitVec.extractLsb'_append_extractLsb'_eq_extractLsb' rfl, append_eq_append_iff]

theorem append_eq_iff {m n : Nat} {a : BitVec m} {b : BitVec n} {w : BitVec (m + n)} :
    a ++ b = w ↔ w.extractLsb' n m = a ∧ w.extractLsb' 0 n = b := by
  have h := extractLsb'_eq_append_iff (w := w) (k := 0) (a := a) (b := b)
  rw [BitVec.extractLsb'_eq_self, Nat.zero_add] at h
  exact eq_comm.trans h

/-- Under a mask of the high m bits, the words that match are those with the high m bits of the pattern (R78). -/
theorem and_highMask_eq_iff {m n : Nat} {a : BitVec m} {w : BitVec (m + n)} :
    w &&& (BitVec.allOnes m ++ 0#n) = a ++ 0#n ↔ w.extractLsb' n m = a := by
  rw [eq_comm, append_eq_iff, BitVec.extractLsb'_and, BitVec.extractLsb'_and, BitVec.extractLsb'_append_eq_left,
    BitVec.extractLsb'_append_eq_right, BitVec.and_allOnes, BitVec.and_zero, and_iff_left rfl]

/-! ### The word of each format, by its fields -/

/-- Format N (R73). -/
theorem encodeN_eq_iff {opc : BitVec 8} {w : Word} :
    encodeN opc = w ↔ opcField w = opc ∧ w.extractLsb' 0 24 = 0#24 :=
  append_eq_iff

/-- Format S (R74), as the bits its row fixes and the operand. -/
theorem encodeS_eq_iff_row {opc : BitVec 8} {sym : Sym} {w : Word} :
    encodeS opc sym = w ↔ w.extractLsb' 8 24 = opc ++ 0#16 ∧ symField w = sym :=
  append_eq_iff (m := 24) (n := 8)

/-- Format S (R74). -/
theorem encodeS_eq_iff {opc : BitVec 8} {sym : Sym} {w : Word} :
    encodeS opc sym = w ↔ (opcField w = opc ∧ w.extractLsb' 8 16 = 0#16) ∧ symField w = sym :=
  encodeS_eq_iff_row.trans (and_congr_left' (extractLsb'_eq_append_iff (m := 8) (n := 16)))

/-- The bits that the row of a format SW or ND opcode fixes (R75, R76). -/
theorem opc_zero13_iff {opc : BitVec 8} {w : Word} :
    w.extractLsb' 11 21 = opc ++ 0#13 ↔ opcField w = opc ∧ w.extractLsb' 11 13 = 0#13 :=
  extractLsb'_eq_append_iff (m := 8) (n := 13)

/-- Format SW (R75). -/
theorem encode_readcode_eq_iff {sym : Sym} {wrd : BitVec 3} {w : Word} :
    encode (.readcode sym wrd) = w ↔
      (w.extractLsb' 11 21 = 8#8 ++ 0#13 ∧ wrdField w = wrd) ∧ symField w = sym :=
  (append_eq_iff (m := 24) (n := 8)).trans
    (and_congr_left' (extractLsb'_eq_append_iff (m := 21) (n := 3)))

/-- Format ND (R76). -/
theorem encode_readnode_eq_iff {node : NodeId} {fld : BitVec 2} {w : Word} :
    encode (.readnode node fld) = w ↔
      (w.extractLsb' 11 21 = 9#8 ++ 0#13 ∧ fldField w = fld) ∧ nodeField w = node :=
  (append_eq_iff (m := 23) (n := 9)).trans
    (and_congr_left' (extractLsb'_eq_append_iff (m := 21) (n := 2)))

/-! ### From a command to its word and back -/

@[simp] theorem opcField_encodeN (opc : BitVec 8) : opcField (encodeN opc) = opc :=
  (encodeN_eq_iff.1 rfl).1

@[simp] theorem opcField_encodeS (opc : BitVec 8) (sym : Sym) : opcField (encodeS opc sym) = opc :=
  (encodeS_eq_iff.1 rfl).1.1

@[simp] theorem decodeN_encodeN (opc : BitVec 8) (i : Instr) : decodeN (encodeN opc) i = .ok i :=
  if_pos (encodeN_eq_iff.1 rfl).2

@[simp] theorem decodeS_encodeS (opc : BitVec 8) (sym : Sym) (f : Sym → Instr) :
    decodeS (encodeS opc sym) f = .ok (f sym) := by
  obtain ⟨⟨-, hzero⟩, hsym⟩ := encodeS_eq_iff.1 (Eq.refl (encodeS opc sym))
  rw [decodeS, if_pos hzero, hsym]

theorem decode_encode_readcode (sym : Sym) (wrd : BitVec 3) :
    decode (encode (.readcode sym wrd)) = .ok (.readcode sym wrd) := by
  obtain ⟨⟨hrow, hwrd⟩, hsym⟩ := encode_readcode_eq_iff.1 (Eq.refl (encode (.readcode sym wrd)))
  obtain ⟨hopc, hzero⟩ := opc_zero13_iff.1 hrow
  simp [decode, decodeSW, hopc, hzero, hwrd, hsym]

theorem decode_encode_readnode (node : NodeId) {fld : BitVec 2} (hfld : fld ≠ 3#2) :
    decode (encode (.readnode node fld)) = .ok (.readnode node fld) := by
  obtain ⟨⟨hrow, hfield⟩, hnode⟩ := encode_readnode_eq_iff.1 (Eq.refl (encode (.readnode node fld)))
  obtain ⟨hopc, hzero⟩ := opc_zero13_iff.1 hrow
  simp [decode, decodeND, hopc, hzero, hfield, hnode, hfld]

/-! ### From a word to its command and back -/

section
variable {w : Word} {i : Instr}

theorem encode_of_decodeN {j : Instr} (opc : BitVec 8) (hopc : (opcField w).toNat = opc.toNat)
    (hwf : j.wellFormed = true) (henc : encode j = encodeN opc) (h : decodeN w j = .ok i) :
    i.wellFormed = true ∧ encode i = w := by
  unfold decodeN at h
  split at h
  case isTrue hzero =>
    cases h
    exact ⟨hwf, henc.trans (encodeN_eq_iff.2 ⟨BitVec.eq_of_toNat_eq hopc, hzero⟩)⟩
  case isFalse => cases h

theorem encode_of_decodeS {f : Sym → Instr} (opc : BitVec 8) (hopc : (opcField w).toNat = opc.toNat)
    (hwf : ∀ sym, (f sym).wellFormed = true) (henc : ∀ sym, encode (f sym) = encodeS opc sym)
    (h : decodeS w f = .ok i) : i.wellFormed = true ∧ encode i = w := by
  unfold decodeS at h
  split at h
  case isTrue hzero =>
    cases h
    exact ⟨hwf _, (henc _).trans (encodeS_eq_iff.2 ⟨⟨BitVec.eq_of_toNat_eq hopc, hzero⟩, rfl⟩)⟩
  case isFalse => cases h

theorem encode_of_decodeSW (hopc : (opcField w).toNat = 8) (h : decodeSW w = .ok i) :
    i.wellFormed = true ∧ encode i = w := by
  unfold decodeSW at h
  split at h
  case isTrue hzero =>
    cases h
    have hrow := opc_zero13_iff.2 ⟨BitVec.eq_of_toNat_eq (y := 8#8) hopc, hzero⟩
    exact ⟨rfl, encode_readcode_eq_iff.2 ⟨⟨hrow, rfl⟩, rfl⟩⟩
  case isFalse => cases h

theorem encode_of_decodeND (hopc : (opcField w).toNat = 9) (h : decodeND w = .ok i) :
    i.wellFormed = true ∧ encode i = w := by
  unfold decodeND at h
  split_ifs at h with hzero hfld
  cases h
  have hrow := opc_zero13_iff.2 ⟨BitVec.eq_of_toNat_eq (y := 9#8) hopc, hzero⟩
  exact ⟨bne_iff_ne.2 hfld, encode_readnode_eq_iff.2 ⟨⟨hrow, rfl⟩, rfl⟩⟩

end

/-! ### Tiers 2 and 3: the round trip -/

/-- Settles O14, format by format: the fields of the word are the opcode, zeros and the operands. -/
theorem decodeOfEncode : Obligations.DecodeOfEncode := by
  intro i hwf
  cases i with
  | nop | clear | build | gencodes | flush | abort => simp [decode, encode]
  | count sym | setfreq sym | readfreq sym | readlen sym | encode sym => simp [decode, encode]
  | readcode sym wrd => exact decode_encode_readcode sym wrd
  | readnode node fld => exact decode_encode_readnode node (bne_iff_ne.1 hwf)

/-- Settles O15, by the arms of decode: each fixes the opcode, and its format's test fixes the bits beside the
operands. -/
theorem encodeOfDecode : Obligations.EncodeOfDecode := by
  intro w i h
  unfold decode at h
  split at h
  next hopc => exact encode_of_decodeN 0x00#8 hopc rfl rfl h
  next hopc => exact encode_of_decodeN 0x01#8 hopc rfl rfl h
  next hopc => exact encode_of_decodeS 0x02#8 hopc (fun _ => rfl) (fun _ => rfl) h
  next hopc => exact encode_of_decodeS 0x03#8 hopc (fun _ => rfl) (fun _ => rfl) h
  next hopc => exact encode_of_decodeS 0x04#8 hopc (fun _ => rfl) (fun _ => rfl) h
  next hopc => exact encode_of_decodeN 0x05#8 hopc rfl rfl h
  next hopc => exact encode_of_decodeN 0x06#8 hopc rfl rfl h
  next hopc => exact encode_of_decodeS 0x07#8 hopc (fun _ => rfl) (fun _ => rfl) h
  next hopc => exact encode_of_decodeSW hopc h
  next hopc => exact encode_of_decodeND hopc h
  next hopc => exact encode_of_decodeS 0x0A#8 hopc (fun _ => rfl) (fun _ => rfl) h
  next hopc => exact encode_of_decodeN 0x0B#8 hopc rfl rfl h
  next hopc => exact encode_of_decodeN 0x0C#8 hopc rfl rfl h
  next => cases h

/-- Decoding inverts encoding on the well-formed commands, and answers no other command (R79, R80). -/
theorem decode_eq_ok_iff {w : Word} {i : Instr} : decode w = .ok i ↔ i.wellFormed = true ∧ encode i = w := by
  constructor
  · exact encodeOfDecode w i
  · rintro ⟨hwf, rfl⟩
    exact decodeOfEncode i hwf

/-! ### Tier 2: the rows of the opcode map -/

/-- A row of format N fixes every bit of the word. -/
theorem decode_eq_ok_iff_row (w : Word) {i : Instr} (hwf : i.wellFormed = true) :
    decode w = .ok i ↔ w &&& 0xFFFFFFFF#32 = encode i := by
  rw [decode_eq_ok_iff, show w &&& 0xFFFFFFFF#32 = w from BitVec.and_allOnes, eq_comm (a := w)]
  exact and_iff_right hwf

/-- A row of format S fixes the bits above SYM. -/
theorem exists_decode_formatS_iff_row (f : Sym → Instr) (opc : BitVec 8) (w : Word)
    (hwf : ∀ sym, (f sym).wellFormed = true) (henc : ∀ sym, encode (f sym) = encodeS opc sym) :
    (∃ sym, decode w = .ok (f sym)) ↔ w &&& 0xFFFFFF00#32 = encodeS opc 0#8 := by
  simp only [decode_eq_ok_iff, hwf, henc, encodeS_eq_iff_row, true_and, exists_and_left, exists_eq', and_true]
  exact and_highMask_eq_iff.symm

/-- READCODE's row fixes the bits above WRD. -/
theorem exists_decode_readcode_iff_row (w : Word) :
    (∃ sym wrd, decode w = .ok (.readcode sym wrd)) ↔ w &&& 0xFFFFF800#32 = 0x08000000#32 := by
  have hrow : (∃ sym wrd, decode w = .ok (.readcode sym wrd)) ↔ w.extractLsb' 11 21 = 8#8 ++ 0#13 := by
    simp [decode_eq_ok_iff, encode_readcode_eq_iff, Instr.wellFormed]
  exact hrow.trans and_highMask_eq_iff.symm

/-- READNODE's row fixes the bits above FLD, and FLD is not 3. -/
theorem exists_decode_readnode_iff_row (w : Word) :
    (∃ node fld, decode w = .ok (.readnode node fld)) ↔
      w &&& 0xFFFFF800#32 = 0x09000000#32 ∧ fldField w ≠ 3#2 := by
  have hrow : (∃ node fld, decode w = .ok (.readnode node fld)) ↔
      w.extractLsb' 11 21 = 9#8 ++ 0#13 ∧ fldField w ≠ 3#2 := by
    simp [decode_eq_ok_iff, encode_readnode_eq_iff, Instr.wellFormed, and_comm]
  exact hrow.trans (and_congr_left' and_highMask_eq_iff.symm)

/-- Settles O16, row by row of the opcode map. -/
theorem wordSelectsRow : Obligations.WordSelectsRow := fun w =>
  ⟨decode_eq_ok_iff_row w rfl,
    decode_eq_ok_iff_row w rfl,
    exists_decode_formatS_iff_row .count 0x02#8 w (fun _ => rfl) (fun _ => rfl),
    exists_decode_formatS_iff_row .setfreq 0x03#8 w (fun _ => rfl) (fun _ => rfl),
    exists_decode_formatS_iff_row .readfreq 0x04#8 w (fun _ => rfl) (fun _ => rfl),
    decode_eq_ok_iff_row w rfl,
    decode_eq_ok_iff_row w rfl,
    exists_decode_formatS_iff_row .readlen 0x07#8 w (fun _ => rfl) (fun _ => rfl),
    exists_decode_readcode_iff_row w,
    exists_decode_readnode_iff_row w,
    exists_decode_formatS_iff_row .encode 0x0A#8 w (fun _ => rfl) (fun _ => rfl),
    decode_eq_ok_iff_row w rfl,
    decode_eq_ok_iff_row w rfl⟩

/-! ### Tier 1: written-out words -/

/-- Settles O13, by running the decoder on each word. -/
theorem decodeOfSpecWords : Obligations.DecodeOfSpecWords := by
  unfold Obligations.DecodeOfSpecWords
  decide

end Sys2Proof
end

section
/-! PROOFS. The block's turn on an illegal word (spec/30_encoding.md R80; spec/40_control.md R96). -/

namespace Sys2Proof.Machine

/-- On the block's turn a step is the block's, with the turn, if it stood there, taken off the order (R59, R90). -/
theorem step_blockTurn {s : State} (h : s.blockTurn = true) :
    step s = blockStep { s with schedule := s.schedule.tail } := by
  unfold State.blockTurn at h
  split at h
  next hs =>
    have hself : { s with schedule := s.schedule.tail } = s := by rw [hs, List.tail_nil, ← hs]
    rw [hself]
    simp [step, runEvent, hs]
  next hs => simp [step, runEvent, hs]
  all_goals cases h

/-- A pending illegal word is answered by runIllegal (R80, R102). -/
theorem blockStep_illegal {s : State} {e : Illegal} (hbusy : s.busy = true) (hdecode : decode s.pendCmd = .error e) :
    blockStep s = .next (runIllegal s) := by
  simp [blockStep, hbusy, hdecode]

/-- Settles O18, by the two cases of ERR. -/
theorem illegalWordIsRecorded : Obligations.IllegalWordIsRecorded := by
  intro s e hturn hbusy hdecode
  have hstep : step s = .next (runIllegal { s with schedule := s.schedule.tail }) :=
    (step_blockTurn hturn).trans (blockStep_illegal hbusy hdecode)
  constructor <;> intro herr
  · simp [hstep, runIllegal, herr, State.raise]
  · simp [hstep, runIllegal, herr, State.finish]

end Sys2Proof.Machine
end

section
/-! PROOFS. The CMD register, the checks every command passes before its body, and the control commands
(spec/40_control.md). -/

namespace Sys2Proof.Machine

/-! ### A write to CMD -/

/-- A 32-bit write in the window reaches its register as the host drove it (R51, R52). -/
theorem hostWrite_word {addr : Nat} (s : State) (data : Word) (h : inWindow addr = true) :
    hostWrite addr .word data s = .next (s.mmioWrite (regIndex addr) data) := by
  simp [hostWrite, h]

/-- A write to CMD issues or overruns, by BUSY (R91, R92). -/
theorem step_writeCmd {s : State} {addr : Nat} {w : Word} {rest : List Event}
    (hs : s.schedule = .write addr .word w :: rest) (hw : inWindow addr = true) (hcmd : regIndex addr = 3#4) :
    step s = .next (if s.busy then State.overrun { s with schedule := rest }
      else State.issue { s with schedule := rest } w) := by
  rw [step_write hs, hostWrite_word _ w hw, hcmd]
  rfl

/-- Of the registers only STATUS shows an issue (R91). -/
theorem readReg_issue (s : State) (w : Word) {idx : BitVec 4} (h : idx ≠ 1#4) :
    (s.issue w).readReg idx = s.readReg idx := by
  unfold State.readReg
  split
  case h_2 hstatus => exact absurd (BitVec.eq_of_toNat_eq hstatus) h
  all_goals rfl

/-! ### The block's step on a decoded command -/

/-- The block executes the command PEND_CMD decodes to (R93, R95). -/
theorem blockStep_decoded {s : State} {i : Instr} (hbusy : s.busy = true) (hdecode : decode s.pendCmd = .ok i) :
    blockStep s = exec i s := by
  simp [blockStep, hbusy, hdecode]

/-- A held command does not execute (R98). -/
theorem exec_held {i : Instr} {s : State} (h : s.held i = true) : exec i s = .next s := by
  simp [exec_runCommand, runCommand, h]

/-- Under ERR = 1 every command but CLEAR is ignored (R96). -/
theorem exec_ignored {i : Instr} {s : State} (herr : s.err = true) (hi : i ≠ .clear) : exec i s = .next s.finish := by
  have hheld : s.held i = false := by simp [State.held, herr]
  have hgate : performedUnderError i = false := by
    rw [← Bool.not_eq_true, performedUnderError_iff]
    exact hi
  simp [exec_runCommand, runCommand, hheld, herr, hgate]

/-- A command that is neither held nor ignored records the phase table's error (R97). -/
theorem exec_outOfPhase {i : Instr} {s : State} {c : ErrCode} (hheld : s.held i = false) (herr : s.err = false)
    (hphase : phaseError i s.phase = some c) : exec i s = .next (s.raise c) := by
  simp [exec_runCommand, runCommand, hheld, herr, hphase]

/-- A command that passes the checks and whose body answers a state completes there (R102). -/
theorem exec_of_perform_ok {i : Instr} {s u : State} (hheld : s.held i = false) (herr : s.err = false)
    (hphase : phaseError i s.phase = none) (hperf : performOf i s = .ok u) : exec i s = .next u.finish := by
  rw [exec_runCommand, runCommand_performs hheld herr hphase, hperf]

/-- A command that passes the checks and whose body answers an error records it (R102). -/
theorem exec_of_perform_error {i : Instr} {s : State} {c : ErrCode} (hheld : s.held i = false) (herr : s.err = false)
    (hphase : phaseError i s.phase = none) (hperf : performOf i s = .error c) : exec i s = .next (s.raise c) := by
  rw [exec_runCommand, runCommand_performs hheld herr hphase, hperf]

/-- CLEAR passes every check in every state (R96, R97, R100). -/
theorem exec_clear (s : State) : exec .clear s = .next s.initRun := by
  have hheld : s.held .clear = false := held_eq_false_of_need rfl
  have hfinish : s.initRun.finish = s.initRun := rfl
  simp [exec_runCommand, runCommand, hheld, performedUnderError, phaseError, performOf, performClear, hfinish]

/-- A command is held only in a phase its row of the phase table allows (R97, R98). -/
theorem held_mem_allowedPhases {i : Instr} {s : State} (h : s.held i = true) : s.phase ∈ allowedPhases i := by
  obtain ⟨-, hcodes⟩ := held_gate h
  cases i with
  | encode | flush => simp [allowedPhases, hcodes]
  | _ => simp [State.held, State.need] at h

/-- The error column of the phase table (R97). -/
theorem phaseError_of_notMem {i : Instr} {p : Phase} (h : p ∉ allowedPhases i) :
    phaseError i p = some (if i = .gencodes ∧ p = .load then .invalidTree else .badPhase) := by
  cases i <;> cases p <;> simp [phaseError, allowedPhases] at h ⊢

/-- A command that records an error takes the raise of R176 on the state it was given (R94). -/
theorem runCommand_records_error {i : Instr} {s : State} (herr : s.err = false)
    (h : (runCommand i (performOf i) s).err = true) :
    ∃ c, c ≠ .noError ∧ runCommand i (performOf i) s = s.raise c := by
  rcases runCommand_cases i (performOf i) s with
    ⟨-, he⟩ | ⟨-, hset, -⟩ | ⟨c, -, -, hphase, he⟩ | ⟨c, -, -, -, hperf, he⟩ | ⟨u, -, -, -, hperf, he⟩
  · simp [he, herr] at h
  · simp [herr] at hset
  · exact ⟨c, (phaseError_some hphase).1, he⟩
  · exact ⟨c, (performOf_error hperf).1, he⟩
  · simp [he, (performed_of_ok hperf).err_eq_false (.inl herr)] at h

/-- A turn of the block that records an error is the raise of R176 alone, for a command and for an illegal word
(R80, R94). -/
theorem blockStep_records_error {s t : State} (h : blockStep s = .next t) (herr : s.err = false)
    (ht : t.err = true) : ∃ c, c ≠ .noError ∧ t = s.raise c := by
  rcases blockStep_cases h with ⟨-, rfl⟩ | ⟨e, -, -, rfl⟩ | ⟨i, -, -, rfl⟩
  · simp [herr] at ht
  · exact ⟨.illegalCmd, by simp, by simp [runIllegal, herr]⟩
  · exact runCommand_records_error herr ht

/-! ### Tier 2: the phase table and precise errors -/

/-- Settles O21: a command out of its phases is not held, and the phase table is read before its body runs. -/
theorem phaseTable : Obligations.PhaseTable := by
  intro i s herr hphase
  have hheld : s.held i = false := eq_false_of_ne_true fun h => hphase (held_mem_allowedPhases h)
  exact exec_outOfPhase hheld herr (phaseError_of_notMem hphase)

/-- Settles O22: whatever records an error on the block's turn does so by raise on the state before it. -/
theorem errorsArePrecise : Obligations.ErrorsArePrecise := by
  intro s t hturn herr hstep ht
  rw [step_blockTurn hturn] at hstep
  obtain ⟨c, hc, rfl⟩ := blockStep_records_error hstep herr ht
  exact ⟨rfl, hc⟩

/-! ### Tier 1: issue and execution -/

/-- Settles O11: with BUSY = 0 the write issues, and a register read sees neither the latch nor the events to come. -/
theorem cmdWriteIssues : Obligations.CmdWriteIssues := by
  intro s addr w rest hs hw hcmd hbusy
  have hstep : step s = .next (State.issue { s with schedule := rest } w) := by
    simp [step_writeCmd hs hw hcmd, hbusy]
  exact ⟨_, hstep, rfl, fun idx hidx => (readReg_issue _ w hidx).trans (readReg_schedule s rest idx)⟩

/-- Settles O12, by the two cases of ERR. -/
theorem cmdWriteOverruns : Obligations.CmdWriteOverruns := by
  intro s addr w rest hs hw hcmd hbusy
  have hstep : step s = .next (State.overrun { s with schedule := rest }) := by
    simp [step_writeCmd hs hw hcmd, hbusy]
  constructor <;> intro herr <;> simp [hstep, State.overrun, herr]

/-- Settles O17: the block's turn is blockStep, whether it stood in the order or the order is empty. -/
theorem stepRunsDecodedCommand : Obligations.StepRunsDecodedCommand := by
  intro s i hbusy hdecode
  constructor
  · intro hs
    have hstep : step s = blockStep s := by simp [step, runEvent, hs]
    exact hstep.trans (blockStep_decoded hbusy hdecode)
  · intro rest hs
    have hstep : step s = blockStep { s with schedule := rest } := by simp [step, runEvent, hs]
    exact hstep.trans (blockStep_decoded (s := { s with schedule := rest }) hbusy hdecode)

/-- Settles O20: the error gate for a command, runIllegal for an illegal word, and CLEAR past the gate. -/
theorem errorStateIgnoresCommands : Obligations.ErrorStateIgnoresCommands := by
  intro s herr
  refine ⟨fun i hi => exec_ignored herr hi, fun e hturn hbusy hdecode => ?_, ?_⟩
  · exact (illegalWordIsRecorded s e hturn hbusy hdecode).2 herr
  · exact ⟨_, exec_clear s, rfl, rfl, rfl, rfl⟩

/-- Settles O29: the need of each command against the depth of OUTQ is the third condition of the hold. -/
theorem heldCommandWaits : Obligations.HeldCommandWaits := by
  intro s herr hcodes
  have hholds : ∀ {i : Instr} {k : Nat}, s.need i = some k → 64 < k + s.outq.length → exec i s = .next s :=
    fun hneed hroom => exec_held (by simp [State.held, herr, hcodes, hneed, Config.outqDepth, hroom])
  exact ⟨fun sym => hholds (i := .encode sym) rfl, hholds (i := .flush) rfl⟩

/-! ### Tier 1: the control commands -/

/-- Settles O31, by ERR: NOP is ignored under ERR = 1 and performed otherwise, and both only clear BUSY. -/
theorem nopOnlyClearsBusy : Obligations.NopOnlyClearsBusy := by
  intro s
  have hexec : exec .nop s = .next s.finish := by
    cases herr : s.err with
    | true => exact exec_ignored herr (by simp)
    | false => exact exec_of_perform_ok (held_eq_false_of_need rfl) herr rfl rfl
  exact hexec

/-- Settles O32: CLEAR is the run initialisation, whose tables read 0 at every symbol. -/
theorem clearSetsResetValues : Obligations.ClearSetsResetValues := by
  intro s
  refine ⟨_, exec_clear s, rfl, rfl, rfl, rfl, rfl, rfl, rfl, rfl, fun sym => ?_, rfl, rfl, fun sym => ?_,
    fun sym => ?_, rfl, rfl, rfl, rfl⟩
  · exact freqOf_replicate 0#32 sym
  · exact lenOf_empty sym
  · exact valOf_empty sym

/-- Settles O33: ABORT passes the checks in every phase, and its body answers IO_FAILURE. -/
theorem abortRecordsIoFailure : Obligations.AbortRecordsIoFailure := by
  intro s herr
  exact exec_of_perform_error (i := .abort) (held_eq_false_of_need rfl) herr rfl rfl

end Sys2Proof.Machine
end

section
/-! PROOFS. The frequency table (spec/41_frequency.md). -/

namespace Sys2Proof.Machine

/-! ### The sum of the table -/

/-- The sum of FREQ over the symbols, not over their numbers (R114). -/
theorem freqTotal_eq_sum (f : Vector Word 256) : freqTotal f = ∑ sym : Sym, (freqOf f sym).toNat := by
  have hrange : freqTotal f = ∑ i ∈ Finset.range 256, (freqOf f (BitVec.ofNat 8 i)).toNat := rfl
  rw [hrange]
  refine Finset.sum_bij (fun i _ => BitVec.ofNat 8 i) (fun _ _ => Finset.mem_univ _) ?_ ?_ (fun _ _ => rfl)
  · intro i hi j hj heq
    simpa [Nat.mod_eq_of_lt (Finset.mem_range.1 hi), Nat.mod_eq_of_lt (Finset.mem_range.1 hj)] using
      congrArg BitVec.toNat heq
  · exact fun sym _ => ⟨sym.toNat, Finset.mem_range.2 sym.isLt, by simp⟩

/-- Two tables that agree but at one symbol differ in their sums by what they hold there. -/
theorem freqTotal_add_of_agree {f g : Vector Word 256} {sym : Sym} (h : ∀ x, x ≠ sym → freqOf g x = freqOf f x) :
    freqTotal g + (freqOf f sym).toNat = freqTotal f + (freqOf g sym).toNat := by
  have hrest : ∑ x ∈ Finset.univ.erase sym, (freqOf g x).toNat = ∑ x ∈ Finset.univ.erase sym, (freqOf f x).toNat :=
    Finset.sum_congr rfl fun x hx => by rw [h x (Finset.ne_of_mem_erase hx)]
  rw [freqTotal_eq_sum, freqTotal_eq_sum, ← Finset.add_sum_erase _ _ (Finset.mem_univ sym), hrest,
    ← Finset.add_sum_erase _ (fun x => (freqOf f x).toNat) (Finset.mem_univ sym)]
  omega

/-! ### Tier 1: the commands -/

/-- Setting one count leaves the others (R34). -/
theorem freqOf_setFreq_of_ne (s : State) {sym x : Sym} (v : Word) (h : x ≠ sym) :
    freqOf (s.setFreq sym v).freq x = freqOf s.freq x := by
  simp [freqOf_set, h.symm]

/-- Settles O34: COUNT passes the checks in LOAD, and its body overflows only at the largest count. -/
theorem countAddsOne : Obligations.CountAddsOne := by
  intro sym s herr hload
  have hheld : s.held (.count sym) = false := held_eq_false_of_need rfl
  have hphase : phaseError (.count sym) s.phase = none := by simp [hload, phaseError]
  constructor
  · intro hlt
    have hmax : freqOf s.freq sym ≠ 0xFFFFFFFF#32 := by bv_omega
    have hadd : (freqOf s.freq sym + 1#32).toNat = (freqOf s.freq sym).toNat + 1 := by bv_omega
    exact ⟨_, exec_of_perform_ok hheld herr hphase (if_neg hmax),
      (congrArg BitVec.toNat (freqOf_set_self _ _ _)).trans hadd, fun x hx => freqOf_setFreq_of_ne s _ hx, rfl⟩
  · exact fun hmax => exec_of_perform_error hheld herr hphase (if_pos hmax)

/-- Settles O35: SETFREQ passes the checks in LOAD, and its body reads the latch and not ARG. -/
theorem setfreqLoadsLatchedArg : Obligations.SetfreqLoadsLatchedArg := by
  intro sym s herr hload
  have hphase : phaseError (.setfreq sym) s.phase = none := by simp [hload, phaseError]
  exact ⟨_, exec_of_perform_ok (held_eq_false_of_need rfl) herr hphase rfl, freqOf_set_self _ _ _,
    fun x hx => freqOf_setFreq_of_ne s _ hx, rfl⟩

/-- Settles O36: READFREQ passes the checks in every phase. -/
theorem readfreqAnswersCount : Obligations.ReadfreqAnswersCount := by
  intro sym s herr
  exact exec_of_perform_ok (i := .readfreq sym) (held_eq_false_of_need rfl) herr rfl rfl

/-! ### Tier 2: the sum along a run -/

/-- The step at which a command completes executes it (R93, R95). -/
theorem step_of_completing {s : State} {i : Instr} (h : s.completing = some i) :
    step s = exec i { s with schedule := s.schedule.tail } := by
  obtain ⟨hturn, hbusy, hdecode, -⟩ := of_completing h
  exact (step_blockTurn hturn).trans (blockStep_decoded (s := { s with schedule := s.schedule.tail }) hbusy hdecode)

/-- A COUNT that completes in LOAD with ERR = 0 adds to the sum exactly when it is performed (R111). -/
theorem freqTotal_step_count {s t : State} {sym : Sym} (hstep : step s = .next t)
    (hcount : s.completing = some (.count sym)) (herr : s.err = false) (hload : s.phase = .load) :
    freqTotal t.freq = freqTotal s.freq + s.countedSyms.length := by
  obtain ⟨hadds, hoverflows⟩ := countAddsOne sym { s with schedule := s.schedule.tail } herr hload
  rw [step_of_completing hcount] at hstep
  by_cases hmax : freqOf s.freq sym = 0xFFFFFFFF#32
  · cases hstep.symm.trans (hoverflows hmax)
    simp [State.countedSyms, hcount, hmax]
  · have hlt : (freqOf s.freq sym).toNat < 2 ^ 32 - 1 := by bv_omega
    obtain ⟨u, hexec, hself, hothers, -⟩ := hadds hlt
    obtain rfl : u = t := Host.Outcome.next.inj (hexec.symm.trans hstep)
    have hsum : freqTotal u.freq + (freqOf s.freq sym).toNat = freqTotal s.freq + (freqOf u.freq sym).toNat :=
      freqTotal_add_of_agree hothers
    have hone : (freqOf u.freq sym).toNat = (freqOf s.freq sym).toNat + 1 := hself
    have hcounted : s.countedSyms = [sym] := by simp [State.countedSyms, hcount, herr, hload, hmax]
    rw [hcounted, List.length_singleton]
    omega

/-- One step other than a SETFREQ, a CLEAR or a reset adds to the sum the number of COUNTs it performs (R114). -/
theorem freqTotal_step {s t : State} (hstep : step s = .next t) (hreset : s.resetNext = false)
    (hclear : s.completing ≠ some .clear) (hset : ∀ sym, s.completing ≠ some (.setfreq sym)) :
    freqTotal t.freq = freqTotal s.freq + s.countedSyms.length := by
  by_cases hcount : s.phase = .load ∧ s.err = false ∧ ∃ sym, s.completing = some (.count sym)
  · obtain ⟨hload, herr, sym, hsym⟩ := hcount
    exact freqTotal_step_count hstep hsym herr hload
  · have hfreq : t.freq = s.freq := by
      by_contra hne
      rcases freqChangesOnlyInLoad s t hstep hne with ⟨hload, herr, sym, hsym⟩ | hc | hr
      · exact hcount ⟨hload, herr, sym, hsym.resolve_right (hset sym)⟩
      · exact hclear hc
      · simp [hreset] at hr
    have hnone : s.countedSyms = [] := by
      unfold State.countedSyms
      split
      next sym hsym => exact if_neg fun ⟨herr, hload, _⟩ => hcount ⟨hload, herr, sym, hsym⟩
      next => rfl
    simp [hfreq, hnone]

/-- Settles O37, by induction on the number of steps. -/
theorem freqTotalCountsCounts : Obligations.FreqTotalCountsCounts := by
  intro n
  induction n with
  | zero =>
    intro s t _ hrun
    obtain rfl : s = t := Option.some.inj hrun
    simp [gather]
  | succ n ih =>
    intro s t hduring hrun
    obtain ⟨u, hstep, hrest⟩ := run_succ.1 hrun
    obtain ⟨⟨hreset, hclear, hset⟩, hlater⟩ := (during_succ hstep).1 hduring
    rw [ih u t hlater hrest, freqTotal_step hstep hreset hclear hset, gather_succ hstep, List.length_append, add_assoc]

end Sys2Proof.Machine
end

section
/-! PROOFS. The priority structure of BUILD: the order of node ids and the reference heap (spec/42_tree.md R121 to
R124). -/

namespace Sys2Proof.Machine

/-! ### The order of node ids -/

/-- A node's place in the order of R121, as one number: the weight first, then the id. -/
def Arena.key (A : Arena) (n : NodeId) : Nat := (A.weightOf n).toNat * 512 + n.toNat

/-- R121 compares keys. -/
theorem less_eq_true_iff {A : Arena} {a b : NodeId} : A.less a b = true ↔ A.key a < A.key b := by
  have := a.isLt
  have := b.isLt
  simp only [Arena.less, Arena.key, Bool.or_eq_true, Bool.and_eq_true, decide_eq_true_eq, beq_iff_eq, BitVec.lt_def,
    BitVec.toNat_eq]
  omega

theorem less_eq_false_iff {A : Arena} {a b : NodeId} : A.less a b = false ↔ A.key b ≤ A.key a := by
  rw [← Bool.not_eq_true, less_eq_true_iff, Nat.not_lt]

/-- No two nodes have the same key, so the order is strict and total (R121). -/
theorem eq_of_key_eq {A : Arena} {a b : NodeId} (h : A.key a = A.key b) : a = b := by
  have := a.isLt
  have := b.isLt
  simp only [Arena.key] at h
  exact BitVec.eq_of_toNat_eq (by omega)

/-- A node before another in the order is no heavier. -/
theorem weight_le_of_key_le {A : Arena} {a b : NodeId} (h : A.key a ≤ A.key b) :
    (A.weightOf a).toNat ≤ (A.weightOf b).toNat := by
  have := a.isLt
  have := b.isLt
  simp only [Arena.key] at h
  omega

theorem key_congr {A A' : Arena} {n : NodeId} (h : A.weightOf n = A'.weightOf n) : A.key n = A'.key n := by
  rw [Arena.key, Arena.key, h]

/-! ### The least id of a list -/

theorem leastOf_spec (A : Arena) {l : List NodeId} (h : l ≠ []) :
    leastOf A l ∈ l ∧ ∀ x ∈ l, A.key (leastOf A l) ≤ A.key x := by
  obtain ⟨a, l, rfl⟩ := List.exists_cons_of_ne_nil h
  induction l generalizing a with
  | nil => simp [leastOf]
  | cons b l ih =>
    have hfirst : ∃ m, leastOf A (a :: b :: l) = leastOf A (m :: l) ∧ (m = a ∨ m = b) ∧
        A.key m ≤ A.key a ∧ A.key m ≤ A.key b := by
      refine ⟨if A.less b a then b else a, rfl, ?_⟩
      cases hless : A.less b a with
      | true => simpa using (less_eq_true_iff.1 hless).le
      | false => simpa using less_eq_false_iff.1 hless
    obtain ⟨m, heq, hm, hma, hmb⟩ := hfirst
    obtain ⟨hmem, hle⟩ := ih m (by simp)
    have := hle m List.mem_cons_self
    rw [heq]
    refine ⟨by grind, fun x hx => ?_⟩
    rcases List.mem_cons.1 hx with rfl | hx
    · omega
    rcases List.mem_cons.1 hx with rfl | hx
    · omega
    · exact hle x (List.mem_cons_of_mem _ hx)

/-- A member of a list with no key below its own is the least id of the list. -/
theorem leastOf_eq {A : Arena} {l : List NodeId} {a : NodeId} (ha : a ∈ l) (hle : ∀ x ∈ l, A.key a ≤ A.key x) :
    leastOf A l = a := by
  obtain ⟨hmem, hleast⟩ := leastOf_spec A (List.ne_nil_of_mem ha)
  exact eq_of_key_eq (Nat.le_antisymm (hleast a ha) (hle _ hmem))

/-! ### The heap order -/

/-- The heap order in keys: no slot's key is below its parent's (R122). -/
theorem Heap.ordered_iff {A : Arena} {h : Heap} :
    h.ordered A ↔ ∀ j, 0 < j → j < h.n → A.key (h.get ((j - 1) / 2)) ≤ A.key (h.get j) := by
  simp only [Heap.ordered, less_eq_false_iff]

/-- The top of a heap in order has the least key. -/
theorem Heap.ordered.key_top_le {A : Arena} {h : Heap} (ho : h.ordered A) (j : Nat) (hj : j < h.n) :
    A.key (h.get 0) ≤ A.key (h.get j) := by
  induction j using Nat.strong_induction_on with
  | _ j ih =>
    rcases Nat.eq_zero_or_pos j with rfl | hpos
    · exact le_rfl
    · exact (ih ((j - 1) / 2) (by omega) (by omega)).trans (Heap.ordered_iff.1 ho j hpos hj)

/-- The order of a heap depends on the weights of the ids it holds alone. -/
theorem Heap.ordered.congr {A A' : Arena} {h : Heap} (ho : h.ordered A)
    (hw : ∀ x ∈ h.ids, A.weightOf x = A'.weightOf x) : h.ordered A' := by
  have hkey : ∀ j < h.n, A.key (h.get j) = A'.key (h.get j) := fun j hj =>
    key_congr (hw _ (List.mem_map_of_mem (List.mem_range.2 hj)))
  rw [Heap.ordered_iff] at ho ⊢
  intro j hpos hj
  rw [← hkey j hj, ← hkey _ (by omega)]
  exact ho j hpos hj

/-- In order but between slot i and its parent: what heap_insert's loop keeps (R122). -/
structure Heap.OrderedAbove (A : Arena) (h : Heap) (i : Nat) : Prop where
  others   : ∀ j, 0 < j → j < h.n → j ≠ i → A.key (h.get ((j - 1) / 2)) ≤ A.key (h.get j)
  children : ∀ j, 0 < j → j < h.n → (j - 1) / 2 = i → 0 < i → A.key (h.get ((i - 1) / 2)) ≤ A.key (h.get j)

/-- A swap of slot i with its greater parent moves the place out of order to the parent. -/
theorem Heap.OrderedAbove.swap {A : Arena} {h : Heap} {i : Nat} (hi : h.OrderedAbove A i) (hpos : 0 < i)
    (hlt : i < h.n) (hn : h.n ≤ 256) (hless : A.key (h.get i) < A.key (h.get ((i - 1) / 2))) :
    (h.swap i ((i - 1) / 2)).OrderedAbove A ((i - 1) / 2) := by
  have hget : ∀ k, (h.swap i ((i - 1) / 2)).get k = _ := fun k =>
    Heap.get_swap h i ((i - 1) / 2) k (by omega) (by omega)
  obtain ⟨hothers, hchildren⟩ := hi
  constructor
  · intro j hj hjn hne
    rw [Heap.swap_n] at hjn
    have := hothers j hj hjn
    have := hchildren j hj hjn
    rw [hget, hget]
    clear hget hothers hchildren
    grind
  · intro j hj hjn hp hpp
    rw [Heap.swap_n] at hjn
    have := hothers j hj hjn
    have := hothers _ hpp (by omega) (by omega)
    rw [hget, hget]
    clear hget hothers hchildren
    grind

/-- heap_insert's loop puts the heap in order (R122). -/
theorem Heap.ordered_siftUp {A : Arena} (fuel i : Nat) {h : Heap} (hi : h.OrderedAbove A i) (hlt : i < h.n)
    (hn : h.n ≤ 256) (hfuel : i ≤ fuel) : (Heap.siftUp A fuel i h).ordered A := by
  have hdone : ∀ {i h}, Heap.OrderedAbove A h i →
      (0 < i → A.key (h.get ((i - 1) / 2)) ≤ A.key (h.get i)) → h.ordered A := by
    intro i h hi hle
    rw [Heap.ordered_iff]
    intro j hj hjn
    by_cases hji : j = i
    · exact hji ▸ hle (hji ▸ hj)
    · exact hi.others j hj hjn hji
  induction fuel generalizing i h with
  | zero => exact hdone hi (by omega)
  | succ fuel ih =>
    rw [Heap.siftUp]
    split_ifs with h0 hless
    · exact hdone hi (by omega)
    · exact ih _ (hi.swap (by omega) hlt hn (less_eq_true_iff.1 hless)) (by simp; omega) hn (by omega)
    · exact hdone hi fun _ => less_eq_false_iff.1 (Bool.eq_false_iff.2 hless)

/-- heap_insert keeps the order (R122). -/
theorem Heap.ordered.insert {A : Arena} {h : Heap} (ho : h.ordered A) (id : NodeId) (hn : h.n < 256) :
    (h.insert A id).ordered A := by
  refine Heap.ordered_siftUp _ _ ⟨?_, ?_⟩ (Nat.lt_succ_self h.n) hn le_rfl
  · intro j hj (hjn : j < h.n + 1) hne
    have hget : ∀ k, k < h.n → Heap.get { h.put h.n id with n := h.n + 1 } k = h.get k := fun k hk =>
      (Heap.get_put h h.n k id hn).trans (if_neg hk.ne')
    rw [hget _ (by omega), hget _ (by omega)]
    exact Heap.ordered_iff.1 ho j hj (by omega)
  · intro j hj (hjn : j < h.n + 1) hp
    omega

/-- In order but between slot i and its children: what heap_popmin's loop keeps (R123). -/
structure Heap.OrderedBelow (A : Arena) (h : Heap) (i : Nat) : Prop where
  others   : ∀ j, 0 < j → j < h.n → (j - 1) / 2 ≠ i → A.key (h.get ((j - 1) / 2)) ≤ A.key (h.get j)
  children : ∀ j, 0 < j → j < h.n → (j - 1) / 2 = i → 0 < i → A.key (h.get ((i - 1) / 2)) ≤ A.key (h.get j)

/-- The comparison of R123 answers the slot with the smaller key, if both are in use. -/
theorem Heap.smaller_spec (A : Arena) (h : Heap) (c m : Nat) :
    (h.smaller A c m = m ∨ h.smaller A c m = c ∧ c < h.n) ∧
      A.key (h.get (h.smaller A c m)) ≤ A.key (h.get m) ∧
      (c < h.n → A.key (h.get (h.smaller A c m)) ≤ A.key (h.get c)) := by
  simp only [Heap.smaller, less_eq_true_iff]
  split_ifs with hc
  · exact ⟨.inr ⟨rfl, hc.1⟩, hc.2.le, fun _ => le_rfl⟩
  · exact ⟨.inl rfl, le_rfl, fun hn => Nat.not_lt.1 fun hlt => hc ⟨hn, hlt⟩⟩

/-- The slot heap_popmin's loop goes on with is slot i itself or a child in use, and its key is the least of the
three (R123). -/
theorem Heap.smaller_child_spec (A : Arena) (h : Heap) (i : Nat) :
    let m := h.smaller A (2 * i + 2) (h.smaller A (2 * i + 1) i)
    (m = i ∨ (m - 1) / 2 = i ∧ i < m ∧ m < h.n) ∧ A.key (h.get m) ≤ A.key (h.get i) ∧
      ∀ j, 0 < j → j < h.n → (j - 1) / 2 = i → A.key (h.get m) ≤ A.key (h.get j) := by
  intro m
  obtain ⟨hl, hli, hlc⟩ := h.smaller_spec A (2 * i + 1) i
  obtain ⟨hr, hrl, hrc⟩ := h.smaller_spec A (2 * i + 2) (h.smaller A (2 * i + 1) i)
  refine ⟨by omega, hrl.trans hli, fun j hj hjn hp => ?_⟩
  obtain rfl | rfl : j = 2 * i + 1 ∨ j = 2 * i + 2 := by omega
  · exact hrl.trans (hlc hjn)
  · exact hrc hjn

/-- A swap of slot i with its least child moves the place out of order to the child. -/
theorem Heap.OrderedBelow.swap {A : Arena} {h : Heap} {i m : Nat} (hi : h.OrderedBelow A i) (hn : h.n ≤ 256)
    (hp : (m - 1) / 2 = i) (him : i < m) (hm : m < h.n)
    (hleast : ∀ j, 0 < j → j < h.n → (j - 1) / 2 = i → A.key (h.get m) ≤ A.key (h.get j))
    (hle : A.key (h.get m) ≤ A.key (h.get i)) : (h.swap i m).OrderedBelow A m := by
  have hget : ∀ k, (h.swap i m).get k = _ := fun k => Heap.get_swap h i m k (by omega) (by omega)
  obtain ⟨hothers, hchildren⟩ := hi
  constructor
  · intro j hj hjn hne
    rw [Heap.swap_n] at hjn
    have := hothers j hj hjn
    have := hleast j hj hjn
    have := hchildren m (by omega) hm hp
    rw [hget, hget]
    clear hget hothers hchildren hleast
    grind
  · intro j hj hjn hpj _
    rw [Heap.swap_n] at hjn
    have := hothers j hj hjn
    rw [hget, hget]
    clear hget hothers hchildren hleast
    grind

/-- heap_popmin's loop puts the heap in order (R123). -/
theorem Heap.ordered_siftDown {A : Arena} (fuel i : Nat) {h : Heap} (hi : h.OrderedBelow A i) (hlt : i < h.n)
    (hn : h.n ≤ 256) (hfuel : h.n ≤ fuel + i) : (Heap.siftDown A fuel i h).ordered A := by
  induction fuel generalizing i h with
  | zero => omega
  | succ fuel ih =>
    obtain ⟨hm, hle, hleast⟩ := h.smaller_child_spec A i
    simp only [Heap.siftDown]
    set m := h.smaller A (2 * i + 2) (h.smaller A (2 * i + 1) i)
    split_ifs with hmi
    · rw [Heap.ordered_iff]
      intro j hj hjn
      by_cases hp : (j - 1) / 2 = i
      · rw [hp]
        exact hmi ▸ hleast j hj hjn hp
      · exact hi.others j hj hjn hp
    · obtain ⟨hp, him, hmn⟩ := hm.resolve_left hmi
      exact ih m (hi.swap hn hp him hmn hleast hle) hmn hn (by simp; omega)

/-- heap_popmin keeps the order (R123). -/
theorem Heap.ordered.popmin {A : Arena} {h : Heap} (ho : h.ordered A) (hn : h.n ≤ 256) :
    (h.popmin A).2.ordered A := by
  simp only [Heap.popmin]
  split_ifs with h1
  · refine Heap.ordered_siftDown _ _ ⟨?_, ?_⟩ h1 (by simp; omega) (by simp)
    · intro j hj (hjn : j < h.n - 1) hp
      have hget : ∀ k, 0 < k → ∀ id, Heap.get (Heap.put { h with n := h.n - 1 } 0 id) k = h.get k := fun k hk id =>
        (Heap.get_put _ 0 k id (by omega)).trans (if_neg hk.ne)
      rw [hget _ (by omega), hget _ (by omega)]
      exact Heap.ordered_iff.1 ho j hj (by omega)
    · intro j hj hjn hp h0
      exact absurd h0 (lt_irrefl 0)
  · intro j hj (hjn : j < h.n - 1)
    exact absurd (hj.trans hjn) h1

/-! ### Tier 2: the heap pops the least id -/

/-- heap_popmin on a heap in order that holds the ids of a list takes out the list's least id (R124). -/
theorem Heap.popmin_eq_leastOf {A : Arena} {h : Heap} {l : List NodeId} (ho : h.ordered A) (hl : h.ids.Perm l)
    (h0 : 0 < h.n) (hn : h.n ≤ 256) :
    (h.popmin A).1 = leastOf A l ∧ (h.popmin A).2.ids.Perm (l.erase (leastOf A l)) := by
  have hpop := hl.symm.trans (Heap.ids_perm_popmin A h h0 hn)
  have hleast : leastOf A l = (h.popmin A).1 := by
    refine leastOf_eq (hpop.symm.subset List.mem_cons_self) fun x hx => ?_
    obtain ⟨j, hj, rfl⟩ := List.mem_map.1 (hl.symm.subset hx)
    exact ho.key_top_le j (List.mem_range.1 hj)
  rw [hleast]
  exact ⟨rfl, by simpa using (hpop.erase (h.popmin A).1).symm⟩

/-- Settles O40: both loops keep the heap in order but at the slot they stand at, and only move ids. -/
theorem heapPopsLeast : Obligations.HeapPopsLeast := by
  intro A h ho
  refine ⟨fun id hn => ⟨ho.insert id hn, Heap.ids_insert_perm A h id hn⟩, fun h0 hn => ?_⟩
  obtain ⟨htop, hrest⟩ := Heap.popmin_eq_leastOf ho (.refl _) h0 hn
  have hne : h.ids ≠ [] := by simpa [Heap.ids] using h0.ne'
  rw [← htop] at hrest
  refine ⟨fun x hx => ?_, ho.popmin hn, hrest⟩
  rw [less_eq_true_iff, htop]
  rcases ((leastOf_spec A hne).2 x hx).eq_or_lt with heq | hlt
  · exact .inl (eq_of_key_eq heq).symm
  · exact .inr hlt

end Sys2Proof.Machine
end

section
/-! PROOFS. BUILD on the reference heap is BUILD on a set of ids, and what the arena holds after each of its steps
(spec/42_tree.md R120 to R130). -/

namespace Sys2Proof.Machine

/-! ### What the arena holds of one node -/

/-- What the arena holds of a node: its weight, and of an internal node its children (R33). -/
def Arena.nodeAt (A : Arena) (n : NodeId) : Weight × Option (NodeId × NodeId) :=
  (A.weightOf n, if isLeafId n then none else some (A.leftOf n, A.rightOf n))

theorem weightOf_eq_of_nodeAt {A A' : Arena} {n : NodeId} (h : A.nodeAt n = A'.nodeAt n) :
    A.weightOf n = A'.weightOf n :=
  congrArg Prod.fst h

theorem nodeAt_internal_iff {A : Arena} {n : NodeId} (hn : isLeafId n = false) {w : Weight} {a b : NodeId} :
    A.nodeAt n = (w, some (a, b)) ↔ A.weightOf n = w ∧ A.leftOf n = a ∧ A.rightOf n = b := by
  simp [Arena.nodeAt, hn]

theorem children_eq_of_nodeAt {A A' : Arena} {n : NodeId} (hn : isLeafId n = false) (h : A.nodeAt n = A'.nodeAt n) :
    A.leftOf n = A'.leftOf n ∧ A.rightOf n = A'.rightOf n :=
  ((nodeAt_internal_iff hn).1 (h.trans ((nodeAt_internal_iff hn).2 ⟨rfl, rfl, rfl⟩))).2

/-- Arenas that hold the same of every node are the same. -/
theorem arena_ext {A A' : Arena} (h : ∀ n, A.nodeAt n = A'.nodeAt n) : A = A' := by
  obtain ⟨w, l, r⟩ := A
  obtain ⟨w', l', r'⟩ := A'
  have hid : ∀ i, i < 255 → (BitVec.ofNat 9 (256 + i)).toNat - 256 = i ∧
      isLeafId (BitVec.ofNat 9 (256 + i)) = false := by
    intro i hi
    simp only [isLeafId, BitVec.toNat_ofNat, decide_eq_false_iff_not]
    omega
  have hw : w = w' := by
    ext1 i hi
    have := weightOf_eq_of_nodeAt (h (BitVec.ofNat 9 i))
    simpa [Arena.weightOf, Nat.mod_eq_of_lt (show i < 512 by omega), hi] using this
  have hlr : ∀ i (hi : i < 255), l[i] = l'[i] ∧ r[i] = r'[i] := by
    intro i hi
    obtain ⟨hidx, hleaf⟩ := hid i hi
    simpa only [Arena.leftOf, Arena.rightOf, hidx, Vector.getElem?_eq_getElem hi, Option.getD_some] using
      children_eq_of_nodeAt hleaf (h _)
  rw [hw, Vector.ext fun i hi => (hlr i hi).1, Vector.ext fun i hi => (hlr i hi).2]

/-- Step 1 of BUILD writes the leaf alone (R125). -/
theorem nodeAt_setWeight_leaf (A : Arena) (sym : Sym) (w : Weight) (n : NodeId) :
    (A.setWeight (leafId sym) w).nodeAt n = if leafId sym = n then (w, none) else A.nodeAt n := by
  have hlt : (leafId sym).toNat < 511 := by simp [leafId]; omega
  rw [Arena.nodeAt, weightOf_setWeight _ _ _ _ hlt]
  split_ifs with h h'
  · rfl
  · exact absurd (h ▸ isLeafId_leafId sym) h'
  all_goals simp [Arena.nodeAt, *]

/-- A merge writes the new internal node alone (R125). -/
theorem nodeAt_merge (A : Arena) {k : Nat} (hk : k < 255) (w : Weight) (a b n : NodeId) :
    ((A.setWeight (mergeId k) w).setChildren (mergeId k) a b).nodeAt n =
      if mergeId k = n then (w, some (a, b)) else A.nodeAt n := by
  have hm := mergeId_toNat (k := k) (by omega)
  have hw := weightOf_setWeight A (mergeId k) n w (by omega)
  rw [Arena.nodeAt, weightOf_setChildren, hw]
  cases hleaf : isLeafId n with
  | true =>
    have hne : mergeId k ≠ n := fun e => by simp [← e, isLeafId_mergeId (k := k) (by omega)] at hleaf
    simp [Arena.nodeAt, hne, hleaf]
  | false =>
    have hn : 256 ≤ n.toNat := by simp [isLeafId] at hleaf; omega
    rw [leftOf_setChildren _ _ _ _ _ (by omega) (by omega) hn, rightOf_setChildren _ _ _ _ _ (by omega) (by omega) hn]
    by_cases hne : mergeId k = n <;> simp [Arena.nodeAt, hne, hleaf]

/-! ### The nodes BUILD has made -/

/-- The nodes made from these symbols by the first k merges: the leaves, then the merges (R120). -/
def madeNodes (syms : List Sym) (k : Nat) : List NodeId := syms.map leafId ++ (List.range k).map mergeId

theorem mem_madeNodes {syms : List Sym} {k : Nat} {n : NodeId} :
    n ∈ madeNodes syms k ↔ (∃ sym ∈ syms, leafId sym = n) ∨ ∃ j < k, mergeId j = n := by
  simp [madeNodes]

theorem leafId_injective {a b : Sym} (h : leafId a = leafId b) : a = b := by
  rw [← leafSym_leafId a, h, leafSym_leafId]

/-- A made node is a leaf or an earlier merge, so its id is below the next merge's (R120). -/
theorem lt_of_mem_madeNodes {syms : List Sym} {k : Nat} {n : NodeId} (hk : k ≤ 256) (h : n ∈ madeNodes syms k) :
    n.toNat < 256 + k := by
  rcases mem_madeNodes.1 h with ⟨sym, -, rfl⟩ | ⟨j, hj, rfl⟩
  · have := sym.isLt
    simp [leafId]
    omega
  · rw [mergeId_toNat (by omega)]
    omega

theorem mergeId_notMem_madeNodes {syms : List Sym} {k : Nat} (hk : k < 256) : mergeId k ∉ madeNodes syms k := by
  intro h
  have := lt_of_mem_madeNodes hk.le h
  rw [mergeId_toNat hk] at this
  exact lt_irrefl _ this

theorem leafId_notMem_madeNodes {syms : List Sym} {sym : Sym} (h : sym ∉ syms) : leafId sym ∉ madeNodes syms 0 := by
  simp only [madeNodes, List.range_zero, List.map_nil, List.append_nil, List.mem_map, not_exists, not_and]
  exact fun a ha he => h (leafId_injective he ▸ ha)

theorem mergeId_mem_madeNodes (syms : List Sym) {j k : Nat} (h : j < k) : mergeId j ∈ madeNodes syms k :=
  mem_madeNodes.2 (.inr ⟨j, h, rfl⟩)

theorem madeNodes_mono {syms : List Sym} {j k : Nat} (h : j ≤ k) {n : NodeId} (hn : n ∈ madeNodes syms j) :
    n ∈ madeNodes syms k := by
  rw [mem_madeNodes] at hn ⊢
  exact hn.imp_right fun ⟨i, hi, he⟩ => ⟨i, hi.trans_le h, he⟩

/-- The k-th merge adds its node to those made. -/
theorem mem_madeNodes_succ {syms : List Sym} {k : Nat} {n : NodeId} :
    n ∈ madeNodes syms (k + 1) ↔ n ∈ madeNodes syms k ∨ n = mergeId k := by
  simp only [mem_madeNodes, Nat.lt_succ_iff_lt_or_eq]
  grind

/-- A new leaf joins those made. -/
theorem mem_madeNodes_append {syms : List Sym} {sym : Sym} {n : NodeId} :
    n ∈ madeNodes (syms ++ [sym]) 0 ↔ n ∈ madeNodes syms 0 ∨ n = leafId sym := by
  simp only [mem_madeNodes, List.mem_append, List.mem_singleton, Nat.not_lt_zero, false_and, exists_false, or_false]
  grind

/-! ### The set form of BUILD, step by step -/

/-- The sum of these symbols' counts (R127). -/
def countSum (f : Vector Word 256) (syms : List Sym) : Nat := (syms.map fun sym => (freqOf f sym).toNat).sum

/-- 40 bits hold the sum of the counts of 256 symbols (R127). -/
theorem countSum_lt (f : Vector Word 256) {syms : List Sym} (h : syms.length ≤ 256) : countSum f syms < 2 ^ 40 := by
  have hle := List.sum_le_card_nsmul (syms.map fun sym => (freqOf f sym).toNat) (2 ^ 32 - 1) fun x hx => by
    obtain ⟨sym, -, rfl⟩ := List.mem_map.1 hx
    have := (freqOf f sym).isLt
    omega
  simp only [List.length_map, smul_eq_mul] at hle
  exact hle.trans_lt (by omega)

/-- The set form of BUILD after k merges over these symbols: which ids it holds, and what the arena records of the nodes
made so far (R125 to R128). -/
structure SetBuilder.Made (f : Vector Word 256) (C : SetBuilder) (syms : List Sym) (k : Nat) : Prop where
  ids    : ∀ n ∈ C.ids, n ∈ madeNodes syms k
  length : C.ids.length + k = syms.length
  total  : (C.ids.map fun n => (C.arena.weightOf n).toNat).sum = countSum f syms
  leaves : ∀ sym ∈ syms, C.arena.nodeAt (leafId sym) = ((freqOf f sym).setWidth 40, none)
  merges : ∀ j < k, C.arena.leftOf (mergeId j) ∈ madeNodes syms j ∧ C.arena.rightOf (mergeId j) ∈ madeNodes syms j ∧
    (C.arena.weightOf (mergeId j)).toNat =
      (C.arena.weightOf (C.arena.leftOf (mergeId j))).toNat + (C.arena.weightOf (C.arena.rightOf (mergeId j))).toNat
  rising : ∀ i j, i < j → j < k → (C.arena.weightOf (mergeId i)).toNat ≤ (C.arena.weightOf (mergeId j)).toNat
  bound  : ∀ j < k, ∀ n ∈ C.ids, (C.arena.weightOf (mergeId j)).toNat ≤ 2 * (C.arena.weightOf n).toNat

namespace SetBuilder.Made

variable {f : Vector Word 256} {C : SetBuilder} {syms : List Sym} {k : Nat}

/-- Step 1 adds a leaf (R125). -/
theorem addLeaf (h : C.Made f syms 0) {sym : Sym} (hsym : sym ∉ syms) : (C.addLeaf f sym).Made f (syms ++ [sym]) 0 := by
  have hnode : ∀ n, (C.addLeaf f sym).arena.nodeAt n =
      if leafId sym = n then ((freqOf f sym).setWidth 40, none) else C.arena.nodeAt n :=
    nodeAt_setWeight_leaf C.arena sym _
  have hold : ∀ n ∈ madeNodes syms 0, (C.addLeaf f sym).arena.nodeAt n = C.arena.nodeAt n := fun n hn =>
    (hnode n).trans (if_neg fun e : leafId sym = n => leafId_notMem_madeNodes hsym (e ▸ hn))
  have hnew : (C.addLeaf f sym).arena.nodeAt (leafId sym) = ((freqOf f sym).setWidth 40, none) :=
    (hnode _).trans (if_pos rfl)
  have hweight : ((C.addLeaf f sym).arena.weightOf (leafId sym)).toNat = (freqOf f sym).toNat := by
    have := (freqOf f sym).isLt
    have hw : (C.addLeaf f sym).arena.weightOf (leafId sym) = (freqOf f sym).setWidth 40 := congrArg Prod.fst hnew
    rw [hw, BitVec.toNat_setWidth]
    omega
  refine ⟨?ids, ?length, ?total, ?leaves, by simp, by simp, by simp⟩
  case ids =>
    intro n hn
    rw [mem_madeNodes_append]
    rcases List.mem_cons.1 hn with rfl | hn
    · exact .inr rfl
    · exact .inl (h.ids n hn)
  case length =>
    have := h.length
    simp only [SetBuilder.addLeaf, List.length_cons, List.length_append, List.length_nil]
    omega
  case total =>
    have hrest : (C.ids.map fun n => ((C.addLeaf f sym).arena.weightOf n).toNat) =
        C.ids.map fun n => (C.arena.weightOf n).toNat :=
      List.map_congr_left fun n hn => congrArg BitVec.toNat (weightOf_eq_of_nodeAt (hold n (h.ids n hn)))
    have hids : (C.addLeaf f sym).ids = leafId sym :: C.ids := rfl
    rw [hids, List.map_cons, List.sum_cons, hrest, h.total, hweight]
    simp [countSum, Nat.add_comm]
  case leaves =>
    intro s hs
    rcases List.mem_append.1 hs with hs | hs
    · rw [hold _ (mem_madeNodes.2 (.inl ⟨s, hs, rfl⟩))]
      exact h.leaves s hs
    · obtain rfl := List.mem_singleton.1 hs
      exact hnew

end SetBuilder.Made

namespace SetBuilder

/-- The id a merge of the set form takes out first (R125). -/
def first (C : SetBuilder) : NodeId := leastOf C.arena C.ids

/-- The id a merge of the set form takes out second (R125). -/
def second (C : SetBuilder) : NodeId := leastOf C.arena (C.ids.erase C.first)

/-- The ids a merge of the set form leaves in (R125). -/
def others (C : SetBuilder) : List NodeId := (C.ids.erase C.first).erase C.second

theorem merge_ids (C : SetBuilder) (k : Nat) : (C.merge k).ids = mergeId k :: C.others := rfl

/-- A merge writes the new node alone (R125). -/
theorem nodeAt_merge (C : SetBuilder) {k : Nat} (hk : k < 255) (n : NodeId) :
    (C.merge k).arena.nodeAt n =
      if mergeId k = n then (C.arena.weightOf C.first + C.arena.weightOf C.second, some (C.first, C.second))
      else C.arena.nodeAt n :=
  Machine.nodeAt_merge C.arena hk _ C.first C.second n

section
variable {C : SetBuilder} (h : 2 ≤ C.ids.length)
include h

theorem first_spec : C.first ∈ C.ids ∧ ∀ n ∈ C.ids, C.arena.key C.first ≤ C.arena.key n :=
  leastOf_spec C.arena (List.ne_nil_of_length_pos (by omega))

theorem second_spec :
    C.second ∈ C.ids.erase C.first ∧ ∀ n ∈ C.ids.erase C.first, C.arena.key C.second ≤ C.arena.key n := by
  have hlen := List.length_erase_of_mem (first_spec h).1
  exact leastOf_spec C.arena (List.ne_nil_of_length_pos (by omega))

theorem ids_perm : C.ids.Perm (C.first :: C.second :: C.others) :=
  (List.perm_cons_erase (first_spec h).1).trans ((List.perm_cons_erase (second_spec h).1).cons _)

theorem weight_first_le : (C.arena.weightOf C.first).toNat ≤ (C.arena.weightOf C.second).toNat :=
  weight_le_of_key_le ((first_spec h).2 _ (List.mem_of_mem_erase (second_spec h).1))

theorem weight_second_le (n : NodeId) (hn : n ∈ C.others) :
    (C.arena.weightOf C.second).toNat ≤ (C.arena.weightOf n).toNat :=
  weight_le_of_key_le ((second_spec h).2 n (List.mem_of_mem_erase hn))

end

end SetBuilder

namespace SetBuilder.Made

variable {f : Vector Word 256} {C : SetBuilder} {syms : List Sym} {k : Nat}

/-- The sum of all weights bounds a merge's, so 40 bits hold it (R127). -/
theorem weight_merge (h : C.Made f syms k) (hs : syms.length ≤ 256) (hk : k + 1 < syms.length) :
    ((C.merge k).arena.weightOf (mergeId k)).toNat =
      (C.arena.weightOf C.first).toNat + (C.arena.weightOf C.second).toNat := by
  have hlen := h.length
  have hw : (C.merge k).arena.weightOf (mergeId k) = C.arena.weightOf C.first + C.arena.weightOf C.second :=
    congrArg Prod.fst ((C.nodeAt_merge (by omega) _).trans (if_pos rfl))
  have hsum := ((ids_perm (C := C) (by omega)).map fun n => (C.arena.weightOf n).toNat).sum_eq
  simp only [List.map_cons, List.sum_cons, h.total] at hsum
  have := countSum_lt f hs
  rw [hw, BitVec.toNat_add]
  omega

/-- A merge leaves the nodes made before it. -/
theorem nodeAt_merge_of_made (C : SetBuilder) (hk : k < 255) {n : NodeId} (hn : n ∈ madeNodes syms k) :
    (C.merge k).arena.nodeAt n = C.arena.nodeAt n :=
  (C.nodeAt_merge hk n).trans (if_neg fun e : mergeId k = n => mergeId_notMem_madeNodes (by omega) (e ▸ hn))

theorem weightOf_merge_of_made (C : SetBuilder) (hk : k < 255) {n : NodeId} (hn : n ∈ madeNodes syms k) :
    (C.merge k).arena.weightOf n = C.arena.weightOf n :=
  weightOf_eq_of_nodeAt (nodeAt_merge_of_made C hk hn)

/-- The ids a merge takes out and those it leaves in were all made before. -/
theorem taken (h : C.Made f syms k) (h2 : 2 ≤ C.ids.length) :
    C.first ∈ madeNodes syms k ∧ C.second ∈ madeNodes syms k ∧ ∀ n ∈ C.others, n ∈ madeNodes syms k := by
  have hmade : ∀ n ∈ C.first :: C.second :: C.others, n ∈ madeNodes syms k := fun n hn =>
    h.ids n ((ids_perm h2).symm.subset hn)
  simpa using hmade

/-- No merge so far, the k-th among them, is heavier than the two ids of the k-th (R128). -/
theorem weight_merged_le (h : C.Made f syms k) (hs : syms.length ≤ 256) (hk : k + 1 < syms.length) {j : Nat}
    (hj : j < k + 1) : ((C.merge k).arena.weightOf (mergeId j)).toNat ≤
      (C.arena.weightOf C.first).toNat + (C.arena.weightOf C.second).toNat := by
  have hlen := h.length
  have h2 : 2 ≤ C.ids.length := by omega
  rcases Nat.lt_succ_iff_lt_or_eq.1 hj with hj | rfl
  · have := h.bound j hj _ (first_spec h2).1
    have := weight_first_le h2
    rw [weightOf_merge_of_made C (by omega) (mergeId_mem_madeNodes syms hj)]
    omega
  · exact (h.weight_merge hs hk).le

/-- Every id left after a merge is at least as heavy as the second one taken out (R128). -/
theorem weight_second_le_merge (h : C.Made f syms k) (hs : syms.length ≤ 256) (hk : k + 1 < syms.length) {n : NodeId}
    (hn : n ∈ (C.merge k).ids) : (C.arena.weightOf C.second).toNat ≤ ((C.merge k).arena.weightOf n).toNat := by
  have hlen := h.length
  have h2 : 2 ≤ C.ids.length := by omega
  rw [merge_ids] at hn
  rcases List.mem_cons.1 hn with rfl | hn
  · rw [h.weight_merge hs hk]
    exact Nat.le_add_left _ _
  · rw [weightOf_merge_of_made C (by omega) ((h.taken h2).2.2 n hn)]
    exact weight_second_le h2 n hn

/-- The children of the merges so far, the k-th among them, were made before them, and weights add up (R126, R127). -/
theorem children_merge (h : C.Made f syms k) (hs : syms.length ≤ 256) (hk : k + 1 < syms.length) {j : Nat}
    (hj : j < k + 1) :
    let A := (C.merge k).arena
    A.leftOf (mergeId j) ∈ madeNodes syms j ∧ A.rightOf (mergeId j) ∈ madeNodes syms j ∧
      (A.weightOf (mergeId j)).toNat =
        (A.weightOf (A.leftOf (mergeId j))).toNat + (A.weightOf (A.rightOf (mergeId j))).toNat := by
  intro A
  have hlen := h.length
  have hk' : k < 255 := by omega
  have hweight : ∀ n ∈ madeNodes syms k, A.weightOf n = C.arena.weightOf n := fun n hn =>
    weightOf_merge_of_made C hk' hn
  rcases Nat.lt_succ_iff_lt_or_eq.1 hj with hj | rfl
  · obtain ⟨hc, hd, hw⟩ := h.merges j hj
    have hmerged := mergeId_mem_madeNodes syms hj
    obtain ⟨hl, hr⟩ := children_eq_of_nodeAt (isLeafId_mergeId (by omega)) (nodeAt_merge_of_made C hk' hmerged)
    rw [hl, hr, hweight _ hmerged, hweight _ (madeNodes_mono hj.le hc), hweight _ (madeNodes_mono hj.le hd)]
    exact ⟨hc, hd, hw⟩
  · obtain ⟨ha, hb, -⟩ := h.taken (by omega)
    obtain ⟨-, hl, hr⟩ := (nodeAt_internal_iff (isLeafId_mergeId (k := j) (by omega))).1
      ((C.nodeAt_merge hk' _).trans (if_pos rfl))
    rw [hl, hr, hweight _ ha, hweight _ hb]
    exact ⟨ha, hb, h.weight_merge hs hk⟩

/-- Step 2 adds a node over the two lightest (R125 to R128). -/
theorem merge (h : C.Made f syms k) (hs : syms.length ≤ 256) (hk : k + 1 < syms.length) :
    (C.merge k).Made f syms (k + 1) := by
  have hlen := h.length
  have h2 : 2 ≤ C.ids.length := by omega
  have hk' : k < 255 := by omega
  obtain ⟨-, -, hothers⟩ := h.taken h2
  have hperm := ids_perm h2
  refine ⟨?ids, ?length, ?total, ?leaves, fun j hj => h.children_merge hs hk hj, ?rising, ?bound⟩
  case ids =>
    intro n hn
    rw [mem_madeNodes_succ]
    rcases List.mem_cons.1 hn with rfl | hn
    · exact .inr rfl
    · exact .inl (hothers n hn)
  case length =>
    have := hperm.length_eq
    simp only [List.length_cons] at this
    rw [merge_ids, List.length_cons]
    omega
  case total =>
    have hmap : (C.others.map fun n => ((C.merge k).arena.weightOf n).toNat) =
        C.others.map fun n => (C.arena.weightOf n).toNat :=
      List.map_congr_left fun n hn => by rw [weightOf_merge_of_made C hk' (hothers n hn)]
    have hsum := (hperm.map fun n => (C.arena.weightOf n).toNat).sum_eq
    simp only [List.map_cons, List.sum_cons] at hsum
    rw [merge_ids, List.map_cons, List.sum_cons, hmap, h.weight_merge hs hk, ← h.total, hsum, Nat.add_assoc]
  case leaves =>
    intro s hs
    rw [nodeAt_merge_of_made C hk' (mem_madeNodes.2 (.inl ⟨s, hs, rfl⟩))]
    exact h.leaves s hs
  case rising =>
    intro i j hij hj
    rcases Nat.lt_succ_iff_lt_or_eq.1 hj with hj | rfl
    · rw [weightOf_merge_of_made C hk' (mergeId_mem_madeNodes syms (hij.trans hj)),
        weightOf_merge_of_made C hk' (mergeId_mem_madeNodes syms hj)]
      exact h.rising i j hij hj
    · exact (h.weight_merged_le hs hk (Nat.lt_succ_of_lt hij)).trans (h.weight_merge hs hk).ge
  case bound =>
    intro j hj n hn
    have := h.weight_merged_le hs hk hj
    have := weight_first_le h2
    have := h.weight_second_le_merge hs hk hn
    omega

end SetBuilder.Made

/-! ### The heap form and the set form side by side -/

/-- The least id of a list depends on the weights of its members alone. -/
theorem leastOf_congr {A A' : Arena} {l : List NodeId} (h : ∀ n ∈ l, A.weightOf n = A'.weightOf n) :
    leastOf A l = leastOf A' l := by
  rcases eq_or_ne l [] with rfl | hne
  · rfl
  · obtain ⟨hmem, hle⟩ := leastOf_spec A' hne
    refine leastOf_eq hmem fun n hn => ?_
    rw [key_congr (h _ hmem), key_congr (h n hn)]
    exact hle n hn

/-- BUILD on the heap and BUILD on the set, after k merges over these symbols: the heap is in order and holds the ids of
the set, and the arenas agree on the nodes made and on the nodes T where they agreed before (R124). -/
structure Builder.Matches (B : Builder) (C : SetBuilder) (T : NodeId → Prop) (syms : List Sym) (k : Nat) : Prop where
  ordered : B.heap.ordered B.arena
  ids     : B.heap.ids.Perm C.ids
  nodeAt  : ∀ n, T n ∨ n ∈ madeNodes syms k → B.arena.nodeAt n = C.arena.nodeAt n

/-- A merge on the heap writes the new node alone (R125). -/
theorem Builder.nodeAt_merge (B : Builder) {k : Nat} (hk : k < 255) {a b : NodeId}
    (ha : (B.heap.popmin B.arena).1 = a) (hb : ((B.heap.popmin B.arena).2.popmin B.arena).1 = b) (n : NodeId) :
    (B.merge k).arena.nodeAt n =
      if mergeId k = n then (B.arena.weightOf a + B.arena.weightOf b, some (a, b)) else B.arena.nodeAt n := by
  subst ha hb
  exact Machine.nodeAt_merge B.arena hk _ _ _ n

namespace Builder.Matches

variable {f : Vector Word 256} {B : Builder} {C : SetBuilder} {T : NodeId → Prop} {syms : List Sym} {k : Nat}

theorem heap_n (h : B.Matches C T syms k) : B.heap.n = C.ids.length := by
  simpa [Heap.ids] using h.ids.length_eq

/-- Step 1 keeps the two side by side (R125). -/
theorem addLeaf (h : B.Matches C T syms 0) (hC : C.Made f syms 0) {sym : Sym} (hsym : sym ∉ syms)
    (hs : syms.length < 256) : (B.addLeaf f sym).Matches (C.addLeaf f sym) T (syms ++ [sym]) 0 := by
  have hlen := hC.length
  have hn : B.heap.n < 256 := by rw [h.heap_n]; omega
  have hnode : ∀ A : Arena, ∀ n, (A.setWeight (leafId sym) ((freqOf f sym).setWidth 40)).nodeAt n = _ := fun A =>
    nodeAt_setWeight_leaf A sym _
  refine ⟨Heap.ordered.insert (h.ordered.congr fun n hn => weightOf_eq_of_nodeAt ?_) _ hn,
    (Heap.ids_insert_perm _ _ _ hn).trans (h.ids.cons _), fun n hn => ?_⟩
  · have hmade := hC.ids n (h.ids.subset hn)
    exact ((hnode _ n).trans (if_neg fun e : leafId sym = n => leafId_notMem_madeNodes hsym (e ▸ hmade))).symm
  · refine (hnode _ n).trans (Eq.trans ?_ (hnode _ n).symm)
    split_ifs with e
    · rfl
    · rw [mem_madeNodes_append, ← or_assoc] at hn
      exact h.nodeAt n (hn.resolve_right fun e' => e e'.symm)

/-- On the heap a merge takes out the two ids it takes out on the set, and leaves the heap in order (R124). -/
theorem removed (h : B.Matches C T syms k) (hC : C.Made f syms k) (hs : syms.length ≤ 256) (h2 : 2 ≤ C.ids.length) :
    (B.heap.popmin B.arena).1 = C.first ∧ ((B.heap.popmin B.arena).2.popmin B.arena).1 = C.second ∧
      ((B.heap.popmin B.arena).2.popmin B.arena).2.ids.Perm C.others ∧
      ((B.heap.popmin B.arena).2.popmin B.arena).2.ordered B.arena := by
  have hlen := hC.length
  have hn := h.heap_n
  have hn₁ := Heap.popmin_n B.arena B.heap
  have hweight : ∀ n ∈ C.ids, B.arena.weightOf n = C.arena.weightOf n := fun n hn =>
    weightOf_eq_of_nodeAt (h.nodeAt n (.inr (hC.ids n hn)))
  obtain ⟨ha, hids₁⟩ := Heap.popmin_eq_leastOf h.ordered h.ids (by omega) (by omega)
  have ho₁ := h.ordered.popmin (by omega)
  rw [leastOf_congr hweight] at ha hids₁
  obtain ⟨hb, hids₂⟩ := Heap.popmin_eq_leastOf ho₁ hids₁ (by omega) (by omega)
  rw [leastOf_congr fun n hn => hweight n (List.mem_of_mem_erase hn)] at hb hids₂
  exact ⟨ha, hb, hids₂, ho₁.popmin (by omega)⟩

/-- Step 2 keeps the two side by side (R125). -/
theorem merge (h : B.Matches C T syms k) (hC : C.Made f syms k) (hs : syms.length ≤ 256) (hk : k + 1 < syms.length) :
    (B.merge k).Matches (C.merge k) T syms (k + 1) := by
  have hlen := hC.length
  have h2 : 2 ≤ C.ids.length := by omega
  obtain ⟨ha, hb, hids, ho⟩ := h.removed hC hs h2
  have hn := hids.length_eq
  have hothers := (SetBuilder.ids_perm h2).length_eq
  simp only [Heap.ids, List.length_map, List.length_range, List.length_cons] at hn hothers
  have hnode := B.nodeAt_merge (k := k) (by omega) ha hb
  obtain ⟨hfirst, hsecond, hmade⟩ := hC.taken h2
  have hweight : ∀ n ∈ madeNodes syms k, B.arena.weightOf n = C.arena.weightOf n := fun n hn =>
    weightOf_eq_of_nodeAt (h.nodeAt n (.inr hn))
  refine ⟨?ordered, ?ids, fun n hn => ?_⟩
  case ordered =>
    rw [B.merge_heap]
    refine Heap.ordered.insert (ho.congr fun n hn => weightOf_eq_of_nodeAt ?_) _ (by omega)
    have hold := hmade n (hids.subset hn)
    exact ((hnode n).trans (if_neg fun e : mergeId k = n => mergeId_notMem_madeNodes (by omega) (e ▸ hold))).symm
  case ids =>
    rw [B.merge_heap, C.merge_ids]
    exact (Heap.ids_insert_perm _ _ _ (by omega)).trans (hids.cons _)
  rw [hnode, C.nodeAt_merge (by omega), hweight _ hfirst, hweight _ hsecond]
  split_ifs with e
  · rfl
  · rw [mem_madeNodes_succ, ← or_assoc] at hn
    exact h.nodeAt n (hn.resolve_right fun e' => e e'.symm)

/-- Step 1 keeps the two side by side to its end (R125). -/
theorem addLeaves (new : List Sym) (h : B.Matches C T syms 0) (hC : C.Made f syms 0) (hnew : (syms ++ new).Nodup)
    (hs : (syms ++ new).length ≤ 256) :
    (new.foldl (Builder.addLeaf f) B).Matches (new.foldl (SetBuilder.addLeaf f) C) T (syms ++ new) 0 ∧
      (new.foldl (SetBuilder.addLeaf f) C).Made f (syms ++ new) 0 := by
  induction new generalizing B C syms with
  | nil => simpa using ⟨h, hC⟩
  | cons sym new ih =>
    have hsym : sym ∉ syms := fun hmem => (List.nodup_append.1 hnew).2.2 sym hmem sym List.mem_cons_self rfl
    rw [List.append_cons] at hnew hs ⊢
    exact ih (h.addLeaf hC hsym (by simp at hs; omega)) (hC.addLeaf hsym) hnew hs

/-- Step 2 keeps the two side by side until one id is left (R125). -/
theorem mergeAll (m : Nat) (h : B.Matches C T syms k) (hC : C.Made f syms k) (hs : syms.length ≤ 256)
    (hm : k + m + 1 = syms.length) {fuel : Nat} (hfuel : m ≤ fuel) :
    (Builder.mergeAll fuel k B).Matches ((List.range' k m).foldl SetBuilder.merge C) T syms (k + m) ∧
      ((List.range' k m).foldl SetBuilder.merge C).Made f syms (k + m) := by
  have hlen := hC.length
  have hn := h.heap_n
  induction m generalizing B C k fuel with
  | zero =>
    have hstop : Builder.mergeAll fuel k B = B := by
      cases fuel with
      | zero => rfl
      | succ fuel => exact if_neg (by omega)
    rw [hstop]
    exact ⟨h, hC⟩
  | succ m ih =>
    obtain ⟨fuel, rfl⟩ := Nat.exists_eq_succ_of_ne_zero (by omega : fuel ≠ 0)
    have hgo : Builder.mergeAll (fuel + 1) k B = Builder.mergeAll fuel (k + 1) (B.merge k) := if_pos (by omega)
    have h' := h.merge hC hs (by omega)
    have hC' := hC.merge hs (by omega)
    rw [hgo, List.range'_succ, List.foldl_cons, Nat.add_comm m 1, ← Nat.add_assoc]
    exact ih h' hC' (by omega) (by omega) hC'.length h'.heap_n

end Builder.Matches

theorem nodup_presentSyms (f : Vector Word 256) : (presentSyms f).Nodup := by
  refine List.Nodup.filter _ (List.Nodup.map_on (fun i hi j hj h => ?_) List.nodup_range)
  rw [List.mem_range] at hi hj
  simpa [Nat.mod_eq_of_lt hi, Nat.mod_eq_of_lt hj] using congrArg BitVec.toNat h

/-- BUILD on the heap from one arena and on the set from another: the set form ends with one id, BUILD's root, and the
arenas agree on all made nodes and on the nodes where they agreed before (R124, R125). -/
theorem buildTree_matches (f : Vector Word 256) (A A' : Arena) (slots : Vector NodeId 256) (hn : numPresent f ≠ 0)
    (T : NodeId → Prop) (hT : ∀ n, T n → A.nodeAt n = A'.nodeAt n) :
    ∃ C : SetBuilder, C.Made f (presentSyms f) (numPresent f - 1) ∧ C.ids = [(buildTree f A slots).2] ∧
      buildTreeBySet f A' = (C.arena, (buildTree f A slots).2) ∧
      ∀ n, T n ∨ n ∈ madeNodes (presentSyms f) (numPresent f - 1) →
        (buildTree f A slots).1.nodeAt n = C.arena.nodeAt n := by
  have hle := numPresent_le f
  have hstart : Builder.Matches ⟨A, ⟨slots, 0⟩⟩ ⟨A', []⟩ T [] 0 :=
    ⟨fun i _ hi => absurd hi (Nat.not_lt_zero i), .refl _, fun n hn => hT n (by simpa [madeNodes] using hn)⟩
  have hmade : SetBuilder.Made f ⟨A', []⟩ [] 0 := ⟨by simp, rfl, rfl, by simp, by simp, by simp, by simp⟩
  obtain ⟨hleaves, hmadeLeaves⟩ := hstart.addLeaves (presentSyms f) hmade (nodup_presentSyms f) hle
  have hlen : ([] ++ presentSyms f).length = numPresent f := rfl
  obtain ⟨hmerged, hC⟩ := hleaves.mergeAll (numPresent f - 1) hmadeLeaves hle (by omega)
    (fuel := (presentSyms f).length) (Nat.sub_le _ _)
  rw [List.nil_append] at hmerged hC hlen
  rw [Nat.zero_add, ← List.range_eq_range'] at hmerged hC
  set C := (List.range (numPresent f - 1)).foldl SetBuilder.merge
    ((presentSyms f).foldl (SetBuilder.addLeaf f) ⟨A', []⟩)
  have hids := hC.length
  obtain ⟨root, hroot⟩ := List.length_eq_one_iff.1 (by omega : C.ids.length = 1)
  have hheap := hmerged.heap_n
  have hpop := (Heap.popmin_eq_leastOf hmerged.ordered hmerged.ids (by omega) (by omega)).1
  rw [hroot] at hpop
  have hset : leastOf C.arena C.ids = root := by rw [hroot]; rfl
  exact ⟨C, hC, hroot.trans (congrArg (fun n => [n]) hpop.symm), Prod.ext rfl (hset.trans hpop.symm), hmerged.nodeAt⟩

/-- What BUILD records of its nodes (R125 to R128). -/
theorem buildTree_made (f : Vector Word 256) (A : Arena) (slots : Vector NodeId 256) (hn : numPresent f ≠ 0) :
    SetBuilder.Made f ⟨(buildTree f A slots).1, [(buildTree f A slots).2]⟩ (presentSyms f) (numPresent f - 1) := by
  obtain ⟨C, hC, hids, -, harena⟩ := buildTree_matches f A A slots hn (fun _ => True) fun _ _ => rfl
  rw [arena_ext fun n => harena n (.inl trivial), ← hids]
  exact hC

/-- BUILD leaves the same root and the same at all made nodes, whatever the arena and HEAP held before (R130). -/
theorem buildTree_determined (f : Vector Word 256) (A A' : Arena) (slots slots' : Vector NodeId 256)
    (hn : numPresent f ≠ 0) :
    (buildTree f A slots).2 = (buildTree f A' slots').2 ∧
      ∀ n ∈ madeNodes (presentSyms f) (numPresent f - 1),
        (buildTree f A slots).1.nodeAt n = (buildTree f A' slots').1.nodeAt n := by
  obtain ⟨C, -, -, hset, harena⟩ := buildTree_matches f A A' slots hn (fun _ => False) fun _ h => h.elim
  obtain ⟨C', -, -, hset', harena'⟩ := buildTree_matches f A' A' slots' hn (fun _ => False) fun _ h => h.elim
  obtain ⟨he, hroot⟩ := Prod.ext_iff.1 (hset.symm.trans hset')
  have he : C.arena = C'.arena := he
  exact ⟨hroot, fun n hmem => by rw [harena n (.inr hmem), harena' n (.inr hmem), he]⟩

/-! ### Tier 2: the two forms of BUILD -/

theorem numPresent_ne_zero {f : Vector Word 256} (h : ∃ sym, freqOf f sym ≠ 0#32) : numPresent f ≠ 0 := by
  obtain ⟨sym, hsym⟩ := h
  exact (List.length_pos_of_mem (mem_presentSyms.2 hsym)).ne'

/-- Settles O41: the two forms run side by side from one arena, so their arenas agree everywhere. -/
theorem buildEqualsSetForm : Obligations.BuildEqualsSetForm := by
  intro f A slots hsym
  obtain ⟨C, -, -, hset, harena⟩ :=
    buildTree_matches f A A slots (numPresent_ne_zero hsym) (fun _ => True) fun _ _ => rfl
  rw [hset]
  exact Prod.ext (arena_ext fun n => harena n (.inl trivial)) rfl

end Sys2Proof.Machine
end

section
/-! PROOFS. The tree BUILD leaves, its lifetime, and READNODE (spec/42_tree.md R125 to R133). -/

namespace Sys2Proof.Machine

/-! ### The state BUILD leaves -/

/-- The state a performed BUILD leaves (R125). -/
def State.built (s : State) : State :=
  { s with
    arena := (buildTree s.freq s.arena s.heap).1, root := (buildTree s.freq s.arena s.heap).2
    nLeaves := BitVec.ofNat 9 (numPresent s.freq), phase := .tree, busy := false
    heap := Config.freeHeap s.draws, heapN := Config.freeHeapN s.draws, draws := s.draws + 1 }

/-- BUILD passes the checks in LOAD, and with a present symbol its body builds (R125). -/
theorem exec_build {s : State} (herr : s.err = false) (hload : s.phase = .load) (hn : numPresent s.freq ≠ 0) :
    exec .build s = .next s.built := by
  have hphase : phaseError .build s.phase = none := by simp [hload, phaseError]
  exact exec_of_perform_ok (held_eq_false_of_need rfl) herr hphase (if_neg hn)

theorem treeBuilt_built {s : State} (hn : numPresent s.freq ≠ 0) : s.built.treeBuilt :=
  ⟨hn, rfl, s.arena, s.heap, rfl⟩

/-- The made nodes of a whole tree, by their ids: the leaves of present symbols and the ids 256..254+n (R37, R126). -/
theorem mem_madeNodes_presentSyms {f : Vector Word 256} {n : NodeId} :
    n ∈ madeNodes (presentSyms f) (numPresent f - 1) ↔
      (if isLeafId n then present f (leafSym n) else decide (n.toNat ≤ 254 + numPresent f)) = true := by
  have hle := numPresent_le f
  simp only [mem_madeNodes, mem_presentSyms]
  cases hleaf : isLeafId n with
  | true =>
    have hid : leafId (leafSym n) = n := by
      simp only [isLeafId, decide_eq_true_eq] at hleaf
      apply BitVec.eq_of_toNat_eq
      simp [leafId, leafSym]
      omega
    have hmerge : ¬ ∃ j < numPresent f - 1, mergeId j = n := by
      rintro ⟨j, hj, rfl⟩
      simp [isLeafId_mergeId (k := j) (by omega)] at hleaf
    simp only [hmerge, or_false, if_true, present, bne_iff_ne]
    constructor
    · rintro ⟨sym, hsym, rfl⟩
      rwa [leafSym_leafId]
    · exact fun h => ⟨_, h, hid⟩
  | false =>
    have hno : ¬ ∃ sym, freqOf f sym ≠ 0#32 ∧ leafId sym = n := by
      rintro ⟨sym, -, rfl⟩
      simp at hleaf
    simp only [isLeafId, decide_eq_false_iff_not] at hleaf
    simp only [hno, false_or, Bool.false_eq_true, if_false, decide_eq_true_eq]
    constructor
    · rintro ⟨j, hj, rfl⟩
      rw [mergeId_toNat (by omega)]
      omega
    · refine fun h => ⟨n.toNat - 256, by omega, BitVec.eq_of_toNat_eq ?_⟩
      rw [mergeId_toNat (by omega)]
      omega

/-- In a state whose tree BUILD made, the valid nodes are those it made (R37, R133). -/
theorem State.treeBuilt.validNode_iff {s : State} (h : s.treeBuilt) (hp : s.phase ≠ .load) {n : NodeId} :
    s.validNode n = true ↔ n ∈ madeNodes (presentSyms s.freq) (numPresent s.freq - 1) := by
  obtain ⟨-, hleaves, -⟩ := h
  rw [mem_madeNodes_presentSyms, State.validNode, hleaves, numPresent_ofNat_toNat]
  simp [hp]

/-- READNODE's view of a node is what the arena holds of it, if it is valid (R131). -/
theorem nodeView_eq (s : State) (n : NodeId) :
    s.nodeView n = if s.validNode n then some (s.arena.nodeAt n) else none := rfl

/-- In LOAD no node is valid (R37). -/
theorem nodeView_load {s : State} (h : s.phase = .load) (n : NodeId) : s.nodeView n = none := by
  simp [State.nodeView, State.validNode, h]

/-! ### Tier 1: BUILD and READNODE -/

/-- Settles O38: BUILD passes the checks in LOAD, and its body answers EMPTY_INPUT. -/
theorem buildOnEmptyTable : Obligations.BuildOnEmptyTable := by
  intro s herr hload hzero
  have hempty : presentSyms s.freq = [] :=
    List.eq_nil_iff_forall_not_mem.2 fun sym hmem => mem_presentSyms.1 hmem (hzero sym)
  have hperf : performOf .build s = .error .emptyInput := if_pos (by rw [hempty]; rfl)
  exact exec_of_perform_error (held_eq_false_of_need rfl) herr (by simp [hload, phaseError]) hperf

/-- With one present symbol BUILD's root is its leaf (R129). -/
theorem NodeTree.IsTreeOf.root_of_single {t : NodeTree} {f : Vector Word 256} {A : Arena} {root : NodeId}
    (h : t.IsTreeOf f A root) {sym : Sym} (hone : presentSyms f = [sym]) : root = leafId sym := by
  obtain ⟨hroot, -, -, hleaves⟩ := h
  rw [hone, List.perm_singleton] at hleaves
  have hlen := t.length_leaves
  cases t with
  | leaf a =>
    obtain rfl : a = sym := by simpa [NodeTree.leaves] using hleaves
    exact hroot.symm
  | node id l r => simp [hleaves, NodeTree.inner] at hlen

/-- A table with this one present symbol. -/
theorem presentSyms_eq_singleton {f : Vector Word 256} {sym : Sym} (h : ∀ x, freqOf f x ≠ 0#32 ↔ x = sym) :
    presentSyms f = [sym] :=
  List.perm_singleton.1 ((List.perm_ext_iff_of_nodup (nodup_presentSyms f) (List.nodup_singleton sym)).2 fun x => by
    rw [mem_presentSyms, h x, List.mem_singleton])

/-- Settles O39: the state BUILD leaves names the tree and HEAP alone, and a tree of one leaf is its root. -/
theorem buildCompletes : Obligations.BuildCompletes := by
  intro s herr hload hsym
  have hn := numPresent_ne_zero hsym
  have hleaves : s.built.nLeaves.toNat = numPresent s.freq := numPresent_ofNat_toNat s.freq
  refine ⟨_, exec_build herr hload hn, rfl, hleaves, by omega, fun sym hone => ?_, rfl⟩
  have hsyms := presentSyms_eq_singleton hone
  obtain ⟨t, ht⟩ := (treeBuilt_built hn).exists_isTreeOf
  have hnum : numPresent s.freq = 1 := congrArg List.length hsyms
  exact ⟨ht.root_of_single hsyms, congrArg (BitVec.ofNat 9) hnum⟩

/-- The LINK word of an internal node as a number (R131). -/
theorem linkWord_toNat (l r : NodeId) :
    (1#1 ++ 1#1 ++ 0#5 ++ l ++ 0#7 ++ r : Word).toNat = 0xC0000000 + 65536 * l.toNat + r.toNat := by
  simp only [toNat_append_arith]
  simp
  omega

/-- The two halves of a weight as numbers (R131). -/
theorem weightWords_toNat (w : Weight) :
    (w.extractLsb' 0 32).toNat = w.toNat % 2 ^ 32 ∧ ((w.extractLsb' 32 8).setWidth 32).toNat = w.toNat / 2 ^ 32 := by
  have := w.isLt
  simp [Nat.shiftRight_eq_div_pow]
  omega

/-- READNODE of a field that is not 3 has an answer (R76, R131). -/
theorem exists_nodeWord (s : State) (n : NodeId) {fld : BitVec 2} (hfld : fld ≠ 3#2) :
    ∃ w, s.nodeWord n fld = some w := by
  have hfields : ∀ fld : BitVec 2, fld ≠ 3#2 → fld = 0#2 ∨ fld = 1#2 ∨ fld = 2#2 := by decide
  rcases hfields fld hfld with rfl | rfl | rfl <;> exact ⟨_, rfl⟩

/-- An invalid node answers 0 in every field (R131). -/
theorem nodeWord_invalid {s : State} {n : NodeId} (h : s.validNode n = false) {fld : BitVec 2} {w : Word}
    (hw : s.nodeWord n fld = some w) : w = 0#32 := by
  simp only [State.nodeWord, h, Bool.false_eq_true, if_false] at hw
  split at hw <;> simp_all

/-- A valid node answers its weight and its link (R131). -/
theorem nodeWord_valid {s : State} {n : NodeId} (h : s.validNode n = true) :
    s.nodeWord n 0#2 = some ((s.arena.weightOf n).extractLsb' 0 32) ∧
      s.nodeWord n 1#2 = some (((s.arena.weightOf n).extractLsb' 32 8).setWidth 32) ∧
      s.nodeWord n 2#2 = some (if isLeafId n then 0x80000000#32
        else 1#1 ++ 1#1 ++ 0#5 ++ s.arena.leftOf n ++ 0#7 ++ s.arena.rightOf n) := by
  simp [State.nodeWord, h]

/-- R37 in the words of the statements. -/
theorem validNode_iff {s : State} (hp : s.phase ≠ .load) (n : NodeId) :
    s.validNode n = true ↔
      if n.toNat ≤ 255 then freqOf s.freq (n.setWidth 8) ≠ 0#32 else n.toNat ≤ 254 + s.nLeaves.toNat := by
  by_cases hn : n.toNat ≤ 255 <;> simp [State.validNode, isLeafId, hn, hp, present, leafSym]

/-- READNODE passes the checks where there is a tree, and answers its word (R131). -/
theorem exec_readnode {s : State} {node : NodeId} {fld : BitVec 2} {w : Word} (herr : s.err = false)
    (hp : s.phase ≠ .load) (hw : s.nodeWord node fld = some w) :
    exec (.readnode node fld) s = .next { s with result := w, busy := false } := by
  have hphase : phaseError (.readnode node fld) s.phase = none := by
    cases h : s.phase <;> simp [h, phaseError] at hp ⊢
  have hperf : performOf (.readnode node fld) s = .ok { s with result := w } := by
    simp [performOf, performReadnode, hw]
  exact exec_of_perform_ok (held_eq_false_of_need rfl) herr hphase hperf

/-- Settles O46, by whether the node is valid and then by the field. -/
theorem readnodeAnswersField : Obligations.ReadnodeAnswersField := by
  intro node fld s herr hp hfld
  obtain ⟨w, hw⟩ := exists_nodeWord s node hfld
  refine ⟨_, exec_readnode herr hp hw, rfl, fun hinvalid => ?_, fun hvalid => ?_⟩
  · refine nodeWord_invalid (Bool.eq_false_iff.2 fun h => ?_) hw
    rw [validNode_iff hp] at h
    split_ifs at h hinvalid
    · exact h hinvalid
    · omega
  · obtain ⟨hlo, hhi, hlink⟩ := nodeWord_valid ((validNode_iff hp node).2 hvalid)
    obtain ⟨hwlo, hwhi⟩ := weightWords_toNat (s.arena.weightOf node)
    refine ⟨?_, ?_, ?_, ?_⟩
    · rintro rfl
      exact Option.some.inj (hw.symm.trans hlo) ▸ hwlo
    · rintro rfl
      exact Option.some.inj (hw.symm.trans hhi) ▸ hwhi
    · rintro rfl hleaf
      rw [hw, Option.some.injEq] at hlink
      exact hlink.trans (if_pos (by simpa [isLeafId] using hleaf))
    · rintro rfl hnode
      rw [hw, Option.some.injEq, if_neg (by simp [isLeafId]; omega)] at hlink
      exact (congrArg BitVec.toNat hlink).trans (linkWord_toNat _ _)

/-! ### Tier 2: the tree BUILD leaves -/

/-- States whose valid nodes are the same and hold the same show the same nodes. -/
theorem nodeView_congr {s s' : State} (hvalid : ∀ n, s.validNode n = s'.validNode n)
    (hnode : ∀ n, s.validNode n = true → s.arena.nodeAt n = s'.arena.nodeAt n) (n : NodeId) :
    s.nodeView n = s'.nodeView n := by
  rw [nodeView_eq, nodeView_eq, ← hvalid n]
  split_ifs with h
  · rw [hnode n h]
  · rfl

/-- From one state with a tree to another that keeps FREQ and the tree, all nodes show the same (R37, R133). -/
theorem nodeView_kept {s t : State} (hs : s.phase ≠ .load) (ht : t.phase ≠ .load) (hfreq : t.freq = s.freq)
    (harena : t.arena = s.arena) (hleaves : t.nLeaves = s.nLeaves) : ∀ n, t.nodeView n = s.nodeView n :=
  nodeView_congr (fun n => by simp only [State.validNode, bne_iff_ne.2 hs, bne_iff_ne.2 ht, hfreq, hleaves])
    fun n _ => by rw [harena]

/-- BUILD from the same FREQ leaves the same nodes to see, the same root and the same number of leaves (R130). -/
theorem built_determined {s s' : State} (hn : numPresent s.freq ≠ 0) (hfreq : s.freq = s'.freq) :
    (∀ n, s.built.nodeView n = s'.built.nodeView n) ∧ s.built.root = s'.built.root ∧
      s.built.nLeaves = s'.built.nLeaves := by
  obtain ⟨hroot, hnodes⟩ := buildTree_determined s.freq s.arena s'.arena s.heap s'.heap hn
  have hphase : s.built.phase ≠ .load := by simp [State.built]
  refine ⟨nodeView_congr (fun n => ?_) fun n hv => ?_, ?_, ?_⟩
  · rw [Bool.eq_iff_iff, (treeBuilt_built hn).validNode_iff hphase,
      (treeBuilt_built (hfreq ▸ hn)).validNode_iff (by simp [State.built])]
    exact hfreq ▸ Iff.rfl
  · rw [(treeBuilt_built hn).validNode_iff hphase] at hv
    simpa only [State.built, ← hfreq] using hnodes n hv
  · simpa only [State.built, ← hfreq] using hroot
  · simp only [State.built, hfreq]

/-- Settles O42: the trees agree at all made nodes, which are the valid ones. -/
theorem buildDependsOnlyOnFreq : Obligations.BuildDependsOnlyOnFreq := by
  intro s s' t t' herr herr' hload hload' hfreq hsym hexec hexec'
  have hn := numPresent_ne_zero hsym
  obtain rfl : s.built = t := Host.Outcome.next.inj ((exec_build herr hload hn).symm.trans hexec)
  obtain rfl : s'.built = t' := Host.Outcome.next.inj ((exec_build herr' hload' (hfreq ▸ hn)).symm.trans hexec')
  exact built_determined hn hfreq

/-- In a tree laid out in the arena every node but the root is a child as often as it is a node (R126). -/
theorem NodeTree.countP_children {A : Arena} {t : NodeTree} (ht : t.heldBy A) (n : NodeId) :
    t.inner.countP (fun m => A.leftOf m == n) + t.inner.countP (fun m => A.rightOf m == n) +
        [t.root].count n =
      (t.leaves.map leafId ++ t.inner).count n := by
  induction t with
  | leaf sym => simp [NodeTree.inner, NodeTree.leaves, NodeTree.root]
  | node id l r ihl ihr =>
    obtain ⟨-, hl, hr, htl, htr⟩ := ht
    have := ihl htl
    have := ihr htr
    have hroot : (NodeTree.node id l r).root = id := rfl
    simp only [List.count_append, List.count_singleton] at *
    simp only [NodeTree.inner, NodeTree.leaves, List.countP_cons, List.countP_append, List.count_cons,
      List.count_append, List.map_append, hl, hr, hroot]
    omega

theorem nodup_madeNodes {syms : List Sym} {k : Nat} (hsyms : syms.Nodup) (hk : k ≤ 256) : (madeNodes syms k).Nodup := by
  refine List.Nodup.append (hsyms.map fun _ _ => leafId_injective) (List.nodup_range.map_on ?_) ?_
  · intro i hi j hj h
    rw [List.mem_range] at hi hj
    have := congrArg BitVec.toNat h
    rw [mergeId_toNat (by omega), mergeId_toNat (by omega)] at this
    omega
  · intro n hleaf hmerge
    obtain ⟨sym, -, rfl⟩ := List.mem_map.1 hleaf
    obtain ⟨j, hj, he⟩ := List.mem_map.1 hmerge
    rw [List.mem_range] at hj
    have hinner := isLeafId_mergeId (k := j) (by omega)
    simp [he] at hinner

/-- Every node of BUILD's tree but the root is the child of exactly one internal node (R126). -/
theorem NodeTree.IsTreeOf.timesChild_eq_one {t : NodeTree} {f : Vector Word 256} {A : Arena} {root : NodeId}
    (h : t.IsTreeOf f A root) {n : NodeId} (hn : n ∈ madeNodes (presentSyms f) (numPresent f - 1)) (hne : n ≠ root) :
    timesChild A (numPresent f) n = 1 := by
  have hle := numPresent_le f
  have hcount := NodeTree.countP_children h.held n
  rw [((h.leaves.map leafId).append h.inner).count_eq, h.inner.countP_eq, h.inner.countP_eq, h.root_eq,
    List.count_eq_zero.2 (by simpa using hne)] at hcount
  exact hcount.trans (List.count_eq_one_of_mem (nodup_madeNodes (nodup_presentSyms f) (by omega)) hn)

/-- The node of a merge of a tree of n leaves. -/
theorem mem_internalIds {n : Nat} {m : NodeId} : m ∈ internalIds n ↔ ∃ k < n - 1, mergeId k = m := by
  simp [internalIds]

/-- The children of BUILD's internal nodes were made before them (R126). -/
theorem children_made {f : Vector Word 256} {A : Arena} {slots : Vector NodeId 256} (hn : numPresent f ≠ 0) {m : NodeId}
    (hm : m ∈ internalIds (numPresent f)) :
    ∀ c ∈ [(buildTree f A slots).1.leftOf m, (buildTree f A slots).1.rightOf m],
      c ∈ madeNodes (presentSyms f) (numPresent f - 1) ∧ c.toNat < m.toNat := by
  have hle := numPresent_le f
  obtain ⟨k, hk, rfl⟩ := mem_internalIds.1 hm
  obtain ⟨hl, hr, -⟩ := (buildTree_made f A slots hn).merges k hk
  have hchild : ∀ c ∈ madeNodes (presentSyms f) k,
      c ∈ madeNodes (presentSyms f) (numPresent f - 1) ∧ c.toNat < (mergeId k).toNat := by
    intro c hc
    rw [mergeId_toNat (by omega)]
    exact ⟨madeNodes_mono hk.le hc, lt_of_mem_madeNodes (by omega) hc⟩
  simpa using ⟨hchild _ hl, hchild _ hr⟩

/-- A node that is a child of an internal node, by that node. -/
theorem exists_of_timesChild_ne_zero {A : Arena} {n : Nat} {c : NodeId} (h : timesChild A n c ≠ 0) :
    ∃ m ∈ internalIds n, c ∈ [A.leftOf m, A.rightOf m] := by
  by_contra hno
  simp only [not_exists, not_and, List.mem_cons, List.not_mem_nil, or_false, not_or] at hno
  refine h ?_
  rw [timesChild, List.countP_eq_zero.2 fun m hm => ?_, List.countP_eq_zero.2 fun m hm => ?_]
  · simpa using fun e : A.rightOf m = c => (hno m hm).2 e.symm
  · simpa using fun e : A.leftOf m = c => (hno m hm).1 e.symm

/-- Settles O43. The last merge's node is a child of no node, as children have lower ids, so it is the root. -/
theorem treeShape : Obligations.TreeShape := by
  intro s herr hload hsym
  have hn := numPresent_ne_zero hsym
  have hle := numPresent_le s.freq
  have hbuilt := treeBuilt_built hn
  have hvalid : ∀ n, s.built.validNode n = true ↔ n ∈ madeNodes (presentSyms s.freq) (numPresent s.freq - 1) :=
    fun n => hbuilt.validNode_iff (by simp [State.built])
  obtain ⟨t, ht⟩ := hbuilt.exists_isTreeOf
  have honce : ∀ n, s.built.validNode n = true → n ≠ s.built.root →
      timesChild s.built.arena (numPresent s.freq) n = 1 := fun n hv => ht.timesChild_eq_one ((hvalid n).1 hv)
  refine ⟨_, exec_build herr hload hn, fun x hx => ?_, fun htwo => ?_, honce, fun m hm => ?_⟩
  · have hleaf : isLeafId x = false := by simp [isLeafId]; omega
    rw [hvalid, mem_madeNodes_presentSyms, hleaf]
    simp
  · have hlast : s.built.validNode (mergeId (numPresent s.freq - 2)) = true :=
      (hvalid _).2 (mergeId_mem_madeNodes _ (by omega))
    have hroot : mergeId (numPresent s.freq - 2) = s.built.root := by
      by_contra hne
      obtain ⟨m, hm, hchild⟩ := exists_of_timesChild_ne_zero (by rw [honce _ hlast hne]; exact one_ne_zero)
      have hlt := (children_made hn hm _ hchild).2
      obtain ⟨k, hk, rfl⟩ := mem_internalIds.1 hm
      rw [mergeId_toNat (by omega), mergeId_toNat (by omega)] at hlt
      omega
    rw [← hroot, mergeId_toNat (by omega)]
    omega
  · have hchild := children_made (A := s.arena) (slots := s.heap) hn hm
    obtain ⟨hl, hlm⟩ := hchild _ List.mem_cons_self
    obtain ⟨hr, hrm⟩ := hchild _ (List.mem_cons_of_mem _ List.mem_cons_self)
    exact ⟨(hvalid _).2 hl, (hvalid _).2 hr, hlm, hrm⟩

/-- The sum of FREQ is the sum over the present symbols, as the others count 0 (R127). -/
theorem countSum_presentSyms (f : Vector Word 256) : countSum f (presentSyms f) = freqTotal f := by
  have hfilter : ∀ l : List Sym, countSum f (l.filter (present f)) = countSum f l := by
    intro l
    induction l with
    | nil => rfl
    | cons sym l ih =>
      simp only [countSum] at ih
      cases hsym : present f sym with
      | true => simp [countSum, hsym, ih]
      | false =>
        have hzero : freqOf f sym = 0#32 := by simpa [present] using hsym
        simp [countSum, hsym, hzero, ih]
  rw [presentSyms, hfilter, countSum, List.map_map]
  rfl

/-- Settles O44: what BUILD records of its leaves and merges, and the one id left holds the sum of all counts. -/
theorem treeWeights : Obligations.TreeWeights := by
  intro s herr hload hsym
  have hn := numPresent_ne_zero hsym
  have hmade := buildTree_made s.freq s.arena s.heap hn
  have htotal : countSum s.freq (presentSyms s.freq) = freqTotal s.freq := countSum_presentSyms s.freq
  refine ⟨_, exec_build herr hload hn, fun sym hp => ?_, fun m hm => ?_, ?_, ?_⟩
  · have hw : s.built.arena.weightOf (leafId sym) = (freqOf s.freq sym).setWidth 40 :=
      congrArg Prod.fst (hmade.leaves sym (mem_presentSyms.2 hp))
    have := (freqOf s.freq sym).isLt
    rw [hw, BitVec.toNat_setWidth]
    omega
  · obtain ⟨k, hk, rfl⟩ := mem_internalIds.1 hm
    exact (hmade.merges k hk).2.2
  · rw [← htotal, ← hmade.total]
    rfl
  · rw [← htotal]
    exact countSum_lt s.freq (numPresent_le s.freq)

/-- Settles O45: each merge takes the two lightest ids, whose weights together are no less than any earlier merge's. -/
theorem mergeWeightsNeverDecrease : Obligations.MergeWeightsNeverDecrease := by
  intro s herr hload hsym
  have hn := numPresent_ne_zero hsym
  exact ⟨_, exec_build herr hload hn, fun k hk =>
    (buildTree_made s.freq s.arena s.heap hn).rising k (k + 1) (Nat.lt_succ_self k) hk⟩

/-! ### Tier 2: the lifetime of the tree -/

/-- BUILD alone writes the tree, and CLEAR (R133). -/
theorem Performed.tree_eq {i : Instr} {s u : State} (h : Performed s i u) :
    (u.arena = s.arena ∧ u.root = s.root ∧ u.nLeaves = s.nLeaves) ∨ i = .build ∨ i = .clear := by
  cases h <;> simp

/-- Settles O27: a step writes the tree only by BUILD, CLEAR or reset, and outside LOAD no step but CLEAR and reset
writes FREQ or goes back to LOAD. -/
theorem treeChangesOnlyByBuild : Obligations.TreeChangesOnlyByBuild := by
  intro s t hstep
  have htree : (t.arena = s.arena ∧ t.root = s.root ∧ t.nLeaves = s.nLeaves) ∨
      (s.completing = some .build ∧ s.phase = .load) ∨ s.completing = some .clear ∨ s.resetNext = true := by
    rcases (step_effect hstep).cases with ⟨-, hun⟩ | ⟨i, u, hi, -, -, -, hphase, hp, rfl⟩ | ⟨-, hreset, -⟩
    · exact .inl ⟨hun.arena, hun.root, hun.nLeaves⟩
    · rcases hp.tree_eq with hkept | rfl | rfl
      · exact .inl hkept
      · exact .inr (.inl ⟨hi, List.mem_singleton.1 (phaseError_eq_none_iff.1 hphase)⟩)
      · exact .inr (.inr (.inl hi))
    · exact .inr (.inr (.inr hreset))
  refine ⟨fun hne => htree.resolve_left fun ⟨ha, hr, hl⟩ => ?_, fun hload hclear hreset n => ?_⟩
  · simp [ha, hr, hl] at hne
  obtain ⟨harena, -, hleaves⟩ := htree.resolve_right (by simp [hload, hclear, hreset])
  have hfreq : t.freq = s.freq := by
    by_contra hne
    rcases freqChangesOnlyInLoad s t hstep hne with ⟨hl, -⟩ | hc | hr
    · exact hload hl
    · exact hclear hc
    · simp [hreset] at hr
  have hphase : t.phase ≠ .load := by
    intro hl
    obtain ⟨hmove, -⟩ := phaseOrder s t hstep
    simpa [hl, hclear, hreset] using (hmove (by rw [hl]; exact hload.symm)).2
  exact nodeView_kept hload hphase hfreq harena hleaves n

end Sys2Proof.Machine
end

section
/-! PROOFS. The codes GENCODES gives are the paths of BUILD's tree (spec/43_codes.md R140 to R143). -/

namespace Sys2Proof.Machine

/-! ### Bit strings and their values -/

/-- The number a bit string writes, the first bit the highest (R140: v becomes 2v or 2v + 1 at each step down). -/
def bitsValue (bs : List Bool) : Nat := bs.foldl (fun v b => 2 * v + b.toNat) 0

theorem bitsValue_concat (bs : List Bool) (b : Bool) : bitsValue (bs ++ [b]) = 2 * bitsValue bs + b.toNat := by
  simp [bitsValue]

theorem msbFirst_succ (len v : Nat) (b : Bool) : msbFirst (len + 1) (2 * v + b.toNat) = msbFirst len v ++ [b] := by
  rw [msbFirst, List.range_succ, List.map_append]
  congr 1
  · refine List.map_congr_left fun i hi => ?_
    rw [List.mem_range] at hi
    rw [show len + 1 - 1 - i = len - 1 - i + 1 by omega, Nat.testBit_succ]
    congr 1
    have := Bool.toNat_le b
    omega
  · cases b <;> simp [Nat.testBit_zero]

/-- Writing a bit string as a number and reading it back (R36). -/
theorem msbFirst_bitsValue (bs : List Bool) : msbFirst bs.length (bitsValue bs) = bs := by
  induction bs using List.reverseRecOn with
  | nil => rfl
  | append_singleton bs b ih =>
    rw [bitsValue_concat, List.length_append, List.length_singleton, msbFirst_succ, ih]

/-- CODE_LEN and CODE_VAL hold a code of at most 255 bits (R36). -/
theorem codeString_set (T : CodeTable) (sym : Sym) {bs : List Bool} (h : bs.length ≤ 255) :
    codeString (T.set sym (BitVec.ofNat 8 bs.length) (BitVec.ofNat 255 (bitsValue bs))) sym = bs := by
  have hlen : (BitVec.ofNat 8 bs.length).toNat = bs.length := by simp; omega
  have hmod : msbFirst bs.length (bitsValue bs % 2 ^ 255) = msbFirst bs.length (bitsValue bs) := by
    refine List.map_congr_left fun i hi => ?_
    rw [List.mem_range] at hi
    rw [Nat.testBit_mod_two_pow, decide_eq_true (by omega), Bool.true_and]
  rw [codeString, lenOf_set, valOf_set, if_pos rfl, if_pos rfl, hlen, BitVec.toNat_ofNat, hmod, msbFirst_bitsValue]

/-! ### The paths of a tree -/

namespace NodeTree

/-- The leaves of a tree with their paths from the top, 0 to the left and 1 to the right (R140). -/
def paths : NodeTree → List (Sym × List Bool)
  | leaf sym => [(sym, [])]
  | node _ l r => l.paths.map (Prod.map id (false :: ·)) ++ r.paths.map (Prod.map id (true :: ·))

theorem paths_fst (t : NodeTree) : t.paths.map Prod.fst = t.leaves := by
  induction t with
  | leaf sym => rfl
  | node id l r ihl ihr => simp [paths, leaves, ← ihl, ← ihr, Function.comp_def]

/-- No leaf's path begins the path of another (R143). -/
theorem not_prefix_of_mem_paths {t : NodeTree} {a b : Sym} {p q : List Bool} (ha : (a, p) ∈ t.paths)
    (hb : (b, q) ∈ t.paths) (hne : a ≠ b) : ¬ p <+: q := by
  induction t generalizing p q with
  | leaf sym =>
    simp only [paths, List.mem_singleton, Prod.mk.injEq] at ha hb
    exact absurd (ha.1.trans hb.1.symm) hne
  | node id l r ihl ihr =>
    simp only [paths, List.mem_append, List.mem_map, Prod.map, Prod.mk.injEq, Prod.exists] at ha hb
    rcases ha with ⟨_, p, hp, rfl, rfl⟩ | ⟨_, p, hp, rfl, rfl⟩ <;>
      rcases hb with ⟨_, q, hq, rfl, rfl⟩ | ⟨_, q, hq, rfl, rfl⟩ <;>
      simp only [List.cons_prefix_cons, true_and, Bool.false_eq_true, Bool.true_eq_false, false_and, not_false_iff]
    · exact ihl hp hq
    · exact ihr hp hq

/-- The paths of a tree fill the Kraft sum (R143). -/
theorem sum_two_pow_paths (t : NodeTree) {N : Nat} (hN : t.depth ≤ N) :
    (t.paths.map fun c => 2 ^ (N - c.2.length)).sum = 2 ^ N := by
  induction t generalizing N with
  | leaf sym => simp [paths]
  | node id l r ihl ihr =>
    obtain ⟨N, rfl⟩ := Nat.exists_eq_succ_of_ne_zero (by simp [depth] at hN; omega : N ≠ 0)
    simp only [depth, Nat.succ_eq_add_one, Nat.add_le_add_iff_right, max_le_iff] at hN
    simp only [paths, List.map_append, List.map_map, Function.comp_def, Prod.map, List.length_cons,
      Nat.succ_eq_add_one, Nat.add_sub_add_right, List.sum_append, ihl hN.1, ihr hN.2]
    omega

theorem valOf_writeCodes_of_notMem {t : NodeTree} {sym : Sym} (h : sym ∉ t.leaves) (v d : Nat) (T : CodeTable) :
    (t.writeCodes v d T).valOf sym = T.valOf sym := by
  induction t generalizing v d T with
  | leaf a =>
    have : a ≠ sym := by simpa [leaves, eq_comm] using h
    simp [writeCodes, valOf_set, this]
  | node id l r ihl ihr =>
    simp only [leaves, List.mem_append, not_or] at h
    simp [writeCodes, ihl h.1, ihr h.2]

theorem codeString_writeCodes_of_notMem {t : NodeTree} {sym : Sym} (h : sym ∉ t.leaves) (v d : Nat) (T : CodeTable) :
    codeString (t.writeCodes v d T) sym = codeString T sym := by
  rw [codeString, lenOf_writeCodes_of_notMem h, valOf_writeCodes_of_notMem h, codeString]

/-- Below the path bs, the recursion of R140 gives each leaf bs and then the leaf's own path. -/
theorem codeString_writeCodes {t : NodeTree} (hnodup : t.leaves.Nodup) {c : Sym × List Bool} (hc : c ∈ t.paths)
    (bs : List Bool) (hlen : bs.length + t.depth ≤ 255) (T : CodeTable) :
    codeString (t.writeCodes (bitsValue bs) bs.length T) c.1 = bs ++ c.2 := by
  induction t generalizing c bs T with
  | leaf sym =>
    obtain rfl := List.mem_singleton.1 hc
    simpa [writeCodes] using codeString_set T sym (bs := bs) (by omega)
  | node id l r ihl ihr =>
    obtain ⟨hl, hr, hdisjoint⟩ := List.nodup_append.1 hnodup
    simp only [depth] at hlen
    simp only [paths, List.mem_append, List.mem_map] at hc
    rcases hc with ⟨c, hc, rfl⟩ | ⟨c, hc, rfl⟩
    · have hnot : c.1 ∉ r.leaves := fun hmem =>
        hdisjoint c.1 (l.paths_fst ▸ List.mem_map_of_mem hc) c.1 hmem rfl
      have := ihl hl hc (bs ++ [false]) (by simp; omega) T
      rw [bitsValue_concat, List.length_append] at this
      rw [writeCodes, Prod.map_fst, id_eq, codeString_writeCodes_of_notMem hnot]
      simpa using this
    · have := ihr hr hc (bs ++ [true]) (by simp; omega) (l.writeCodes (2 * bitsValue bs) (bs.length + 1) T)
      rw [bitsValue_concat, List.length_append] at this
      simpa [writeCodes] using this

end NodeTree

/-! ### Tier 2: no code begins another -/

theorem NodeTree.IsTreeOf.nodup_leaves {t : NodeTree} {f : Vector Word 256} {A : Arena} {root : NodeId}
    (h : t.IsTreeOf f A root) : t.leaves.Nodup :=
  h.leaves.nodup_iff.2 (nodup_presentSyms f)

/-- The codes GENCODES gives to the leaves of a tree: the paths, and "0" for a lone leaf (R140, R141). -/
def NodeTree.codes : NodeTree → List (Sym × List Bool)
  | .leaf sym => [(sym, [false])]
  | .node id l r => (NodeTree.node id l r).paths

theorem NodeTree.codes_fst (t : NodeTree) : t.codes.map Prod.fst = t.leaves := by
  cases t with
  | leaf sym => rfl
  | node id l r => exact paths_fst _

theorem NodeTree.IsTreeOf.codeString_genTable {t : NodeTree} {f : Vector Word 256} {A : Arena} {root : NodeId}
    (h : t.IsTreeOf f A root) {c : Sym × List Bool} (hc : c ∈ t.codes) : codeString (genTable A root) c.1 = c.2 := by
  cases t with
  | leaf sym =>
    obtain rfl := List.mem_singleton.1 hc
    rw [genTable_of_leaf h]
    exact codeString_set .empty sym (bs := [false]) (by simp)
  | node id l r =>
    rw [genTable_of_node h]
    exact NodeTree.codeString_writeCodes h.nodup_leaves hc [] (by simpa using h.depth_le) .empty

/-- No code begins the code of another symbol (R143). -/
theorem NodeTree.not_prefix_of_mem_codes {t : NodeTree} {a b : Sym} {p q : List Bool} (ha : (a, p) ∈ t.codes)
    (hb : (b, q) ∈ t.codes) (hne : a ≠ b) : ¬ p <+: q := by
  cases t with
  | leaf sym =>
    simp only [codes, List.mem_singleton, Prod.mk.injEq] at ha hb
    exact absurd (ha.1.trans hb.1.symm) hne
  | node id l r => exact not_prefix_of_mem_paths ha hb hne

/-- The codes fill the Kraft sum, but for a lone leaf's, which fills half of it (R143). -/
theorem NodeTree.sum_two_pow_codes {t : NodeTree} (h : t.depth ≤ 255) :
    (t.codes.map fun c => 2 ^ (255 - c.2.length)).sum = if 2 ≤ t.leaves.length then 2 ^ 255 else 2 ^ 254 := by
  cases t with
  | leaf sym => simp [codes, leaves]
  | node id l r =>
    have := l.depth_lt_length_leaves
    have := r.depth_lt_length_leaves
    rw [if_pos (by simp only [leaves, List.length_append]; omega)]
    exact sum_two_pow_paths _ h

/-- GENCODES passes the checks in TREE (R140). -/
theorem exec_gencodes {s : State} (herr : s.err = false) (htree : s.phase = .tree) :
    exec .gencodes s = .next { s with codes := genTable s.arena s.root, phase := .codes, busy := false } :=
  exec_of_perform_ok (i := .gencodes) (held_eq_false_of_need rfl) herr (by simp [htree, phaseError]) rfl

/-- Settles O49: the codes are the paths of BUILD's tree, and of a lone leaf "0". -/
theorem codesArePrefixFree : Obligations.CodesArePrefixFree := by
  intro s hinv herr hphase
  have hbuilt := hinv.tree (by simp [hphase])
  obtain ⟨t, ht⟩ := hbuilt.exists_isTreeOf
  have hsyms : (t.codes.map Prod.fst).Perm (presentSyms s.freq) := t.codes_fst ▸ ht.leaves
  have hcode : ∀ sym, freqOf s.freq sym ≠ 0#32 → (sym, codeString (genTable s.arena s.root) sym) ∈ t.codes := by
    intro sym hsym
    obtain ⟨c, hc, rfl⟩ := List.mem_map.1 (hsyms.symm.subset (mem_presentSyms.2 hsym))
    rwa [ht.codeString_genTable hc]
  refine ⟨_, exec_gencodes herr hphase, fun sym => ?_, fun a b ha hb hne => ?_, ?_⟩
  · rw [← lenOf_genTable_ne_zero_iff ht, BitVec.toNat_ne]
    rfl
  · exact NodeTree.not_prefix_of_mem_codes (hcode a ha) (hcode b hb) hne
  · have hlen : ∀ sym, ((genTable s.arena s.root).lenOf sym).toNat =
        (codeString (genTable s.arena s.root) sym).length := fun sym => (msbFirst_length _ _).symm
    have hcodes : t.codes.map (fun c => 2 ^ (255 - ((genTable s.arena s.root).lenOf c.1).toNat)) =
        t.codes.map fun c => 2 ^ (255 - c.2.length) :=
      List.map_congr_left fun c hc => by rw [hlen, ht.codeString_genTable hc]
    have hnum : s.nLeaves.toNat = t.leaves.length :=
      (hbuilt.root_valid (by simp [hphase])).1.trans ht.leaves.length_eq.symm
    have hsum := (hsyms.map fun sym => 2 ^ (255 - ((genTable s.arena s.root).lenOf sym).toNat)).sum_eq
    rw [List.map_map] at hsum
    rw [hnum, ← NodeTree.sum_two_pow_codes ht.depth_le, ← hcodes]
    exact hsum.symm

end Sys2Proof.Machine
end

section
/-! PROOFS. Runs in which the same commands complete in the same order (spec/70_reset_and_hazards.md R216). -/

namespace Sys2Proof.Machine

/-! ### What the view reads -/

/-- The view is what only a performed command or a reset writes, and the error state. -/
theorem view_eq_of_content {s t : State} (h : t.content = s.content) (herr : t.err = s.err)
    (hcode : t.errcode = s.errcode) : t.view = s.view := by
  have hnode : ∀ (u : State) n, u.content.nodeView n = u.nodeView n := fun _ _ => rfl
  have hview : ∀ u : State, u.view = { u.content.view with err := u.err, errcode := u.errcode } := by
    intro u
    simp only [State.view, hnode]
    rfl
  rw [hview t, hview s, h, herr, hcode]

theorem nodeView_eq_of_view {s s' : State} (h : s.view = s'.view) (n : NodeId) : s.nodeView n = s'.nodeView n := by
  have hmap := congrArg View.tree h
  simp only [State.view] at hmap
  simpa using List.map_inj_left.1 hmap n.toNat (List.mem_range.2 n.isLt)

/-- A command that answers writes RESULT alone (R32). -/
theorem view_result (s : State) (w : Word) : ({ s with result := w } : State).view = { s.view with result := w } := by
  have hnode : ∀ n, ({ s with result := w } : State).nodeView n = s.nodeView n := fun _ => rfl
  simp only [State.view, hnode, State.pushedBytes]

/-- In LOAD the tables are no part of what the view shows of the tree (R34, R37). -/
theorem view_setFreq {s : State} (h : s.phase = .load) (sym : Sym) (v : Word) :
    (s.setFreq sym v).view = { s.view with freq := s.freq.set sym.toNat v sym.isLt } := by
  have hnode : ∀ n, (s.setFreq sym v).nodeView n = s.nodeView n := fun n =>
    (nodeView_load (s := s.setFreq sym v) h n).trans (nodeView_load h n).symm
  simp only [State.view, hnode, State.pushedBytes]
  rfl

/-- The packer's writes: bytes pushed follow those pushed before (R66, R155). -/
theorem view_pack (s : State) (bs : List Byte) (acc : BitVec 8) (cnt : BitVec 3) (total : BitVec 64) :
    ({ s with outq := s.outq ++ bs, acc := acc, accCnt := cnt, bitcnt := total } : State).view =
      { s.view with pushed := s.view.pushed ++ bs, acc := acc, accCnt := cnt, bitcnt := total } := by
  have hnode : ∀ n, ({ s with outq := s.outq ++ bs, acc := acc, accCnt := cnt, bitcnt := total } : State).nodeView n =
    s.nodeView n := fun _ => rfl
  simp only [State.view, hnode, State.pushedBytes, List.append_assoc]

/-- GENCODES goes on from TREE and writes the code table (R140). -/
theorem view_gencodes {s : State} (h : s.phase ≠ .load) (T : CodeTable) :
    ({ s with codes := T, phase := .codes } : State).view = { s.view with codes := T, phase := .codes } := by
  have hnode := nodeView_kept (t := { s with codes := T, phase := .codes }) h (by simp) rfl rfl rfl
  simp only [State.view, hnode, State.pushedBytes]

/-- FLUSH goes on from CODES and empties the accumulator (R156). -/
theorem view_flush {s : State} (h : s.phase ≠ .load) (bs : List Byte) :
    ({ s with outq := s.outq ++ bs, acc := 0#8, accCnt := 0#3, phase := .done } : State).view =
      { s.view with pushed := s.view.pushed ++ bs, acc := 0#8, accCnt := 0#3, phase := .done } := by
  have hnode := nodeView_kept (t := { s with outq := s.outq ++ bs, acc := 0#8, accCnt := 0#3, phase := .done }) h
    (by simp) rfl rfl rfl
  simp only [State.view, hnode, State.pushedBytes, List.append_assoc]

/-- BUSY is no part of the view (R216). -/
theorem view_finish (s : State) : s.finish.view = s.view :=
  view_eq_of_content rfl rfl rfl

theorem view_raise (s : State) (c : ErrCode) : (s.raise c).view = { s.view with err := true, errcode := c } := by
  have hnode : ∀ n, (s.raise c).nodeView n = s.nodeView n := fun _ => rfl
  simp only [State.view, hnode, State.pushedBytes]
  rfl

/-- The run initialisation leaves nothing of the run to see (R44). -/
theorem view_initRun (s s' : State) : s.initRun.view = s'.initRun.view := by
  simp only [State.view, nodeView_load (State.initRun_phase _)]
  rfl

/-- BUILD's part of the view: the tree it makes, whatever the arena and HEAP held (R130). -/
theorem view_built {s s' : State} (hn : numPresent s.freq ≠ 0) (h : s.view = s'.view) :
    s.built.view = s'.built.view := by
  obtain ⟨hnode, hroot, hleaves⟩ := built_determined hn (congrArg View.freq h : s.freq = s'.freq)
  have hview : ∀ u : State, u.built.view = { u.view with
      tree := (List.range 512).map fun i => u.built.nodeView (BitVec.ofNat 9 i), root := u.built.root
      nLeaves := u.built.nLeaves, phase := .tree } := fun u => by
    simp only [State.view, State.pushedBytes]
    rfl
  rw [hview s, hview s', h, hroot, hleaves]
  simp only [hnode]

/-- READNODE answers what the view shows of the node (R131). -/
theorem nodeWord_congr {s s' : State} {n : NodeId} (h : s.nodeView n = s'.nodeView n) (fld : BitVec 2) :
    s.nodeWord n fld = s'.nodeWord n fld := by
  rw [nodeView_eq, nodeView_eq] at h
  cases hv : s.validNode n <;> cases hv' : s'.validNode n <;> simp only [hv, hv', if_true, if_false,
    Bool.false_eq_true, reduceCtorEq, Option.some.injEq] at h
  · simp [State.nodeWord, hv, hv']
  · have hw := weightOf_eq_of_nodeAt h
    cases hleaf : isLeafId n with
    | true => simp [State.nodeWord, hv, hv', hw, hleaf]
    | false =>
      obtain ⟨hl, hr⟩ := children_eq_of_nodeAt hleaf h
      simp [State.nodeWord, hv, hv', hw, hl, hr]

/-! ### A command's effect on the view -/

/-- The code table of a tree depends on the tree alone (R140, R141). -/
theorem genTable_eq {t : NodeTree} {f f' : Vector Word 256} {A A' : Arena} {root root' : NodeId}
    (h : t.IsTreeOf f A root) (h' : t.IsTreeOf f' A' root') : genTable A root = genTable A' root' := by
  cases t with
  | leaf sym => rw [genTable_of_leaf h, genTable_of_leaf h']
  | node id l r => rw [genTable_of_node h, genTable_of_node h']

/-- States that look alike and whose trees BUILD made have the same code table to make (R140). -/
theorem genTable_eq_of_view {s s' : State} (hbuilt : s.treeBuilt) (hp : s.phase ≠ .load) (h : s.view = s'.view) :
    genTable s.arena s.root = genTable s'.arena s'.root := by
  obtain ⟨t, ht⟩ := hbuilt.exists_isTreeOf
  have hfreq : s.freq = s'.freq := congrArg View.freq h
  have hroot : s.root = s'.root := congrArg View.root h
  refine genTable_eq ht ⟨ht.root_eq.trans hroot, NodeTree.heldBy_congr ht.held fun n hn => ?_, hfreq ▸ ht.inner,
    hfreq ▸ ht.leaves⟩
  have hn' : n ∈ internalIds (numPresent s.freq) := ht.inner.subset hn
  have hvalid : s.validNode n = true := (hbuilt.validNode_iff hp).2 (List.mem_append_right _ hn')
  have hle := numPresent_le s.freq
  obtain ⟨k, hk, rfl⟩ := mem_internalIds.1 hn'
  have hleaf := isLeafId_mergeId (k := k) (by omega)
  have hview := nodeView_eq_of_view h (mergeId k)
  rw [nodeView_eq, nodeView_eq, if_pos hvalid] at hview
  split_ifs at hview
  obtain ⟨hl, hr⟩ := children_eq_of_nodeAt hleaf (Option.some.inj hview)
  exact ⟨hl.symm, hr.symm⟩

/-- A command allowed in its phase records the same error or leaves states that look alike, from states that look alike
and have latched the same operand. -/
theorem view_performOf {s s' : State} (hinv : Inv s) (h : s.view = s'.view) (harg : s.pendArg = s'.pendArg) {i : Instr}
    (hphase : phaseError i s.phase = none) :
    (performOf i s).map State.view = (performOf i s').map State.view := by
  have hfrom := phaseError_eq_none_iff.1 hphase
  have hp : s.phase = s'.phase := congrArg View.phase h
  have hfreq : s.freq = s'.freq := congrArg View.freq h
  have hcodes : s.codes = s'.codes := congrArg View.codes h
  have hacc : s.acc = s'.acc := congrArg View.acc h
  have hcnt : s.accCnt = s'.accCnt := congrArg View.accCnt h
  have hbit : s.bitcnt = s'.bitcnt := congrArg View.bitcnt h
  cases i with
  | nop => exact congrArg Except.ok h
  | clear => exact congrArg Except.ok (view_initRun s s')
  | abort => rfl
  | count sym =>
    have hload := List.mem_singleton.1 hfrom
    simp only [performOf, performCount, hfreq]
    split_ifs
    · rfl
    · exact congrArg Except.ok (by rw [view_setFreq hload, view_setFreq (hp ▸ hload), h, hfreq])
  | setfreq sym =>
    have hload := List.mem_singleton.1 hfrom
    exact congrArg Except.ok (by rw [view_setFreq hload, view_setFreq (hp ▸ hload), h, hfreq, harg])
  | readfreq sym => exact congrArg Except.ok (by rw [view_result s, view_result s', h, hfreq])
  | readlen sym => exact congrArg Except.ok (by rw [view_result s, view_result s', h, hcodes])
  | readcode sym wrd => exact congrArg Except.ok (by rw [view_result s, view_result s', h, hcodes])
  | readnode node fld =>
    simp only [performOf, performReadnode, nodeWord_congr (nodeView_eq_of_view h node) fld]
    cases s'.nodeWord node fld with
    | none => rfl
    | some w => exact congrArg Except.ok (by rw [view_result s, view_result s', h])
  | build =>
    by_cases hn : numPresent s.freq = 0
    · have hfails : ∀ u : State, numPresent u.freq = 0 → performOf .build u = .error .emptyInput :=
        fun u hu => if_pos hu
      rw [hfails s hn, hfails s' (hfreq ▸ hn)]
    · have hbuilds : ∀ u : State, numPresent u.freq ≠ 0 → (performOf .build u).map State.view = .ok u.built.view :=
        fun u hu => (congrArg (Except.map State.view) (if_neg hu : performOf .build u = _)).trans
          (congrArg Except.ok (view_finish _).symm)
      rw [hbuilds s hn, hbuilds s' (hfreq ▸ hn), view_built hn h]
  | gencodes =>
    have htree := List.mem_singleton.1 hfrom
    have hload : s.phase ≠ .load := by simp [htree]
    have htable := genTable_eq_of_view (hinv.tree hload) hload h
    exact congrArg Except.ok (by rw [view_gencodes hload, view_gencodes (hp ▸ hload), h, htable])
  | encode sym =>
    simp only [performOf, performEncode, hcodes, hacc, hcnt, hbit]
    split_ifs
    · rfl
    · exact congrArg Except.ok ((view_pack s _ _ _ _).trans (by rw [h]; exact (view_pack s' _ _ _ _).symm))
  | flush =>
    have hcode := List.mem_singleton.1 hfrom
    have hload : s.phase ≠ .load := by simp [hcode]
    have hview : ∀ u : State, u.phase ≠ .load → (performOf .flush u).map State.view = .ok { u.view with
        pushed := u.view.pushed ++ lastByte u.acc u.accCnt.toNat, acc := 0#8, accCnt := 0#3, phase := .done } :=
      fun u hu => congrArg Except.ok (view_flush hu _)
    rw [hview s hload, hview s' (hp ▸ hload), h, hacc, hcnt]

/-- A command that is not held has the same effect on states that look alike (R216). -/
theorem view_runCommand {s s' : State} (hinv : Inv s) (h : s.view = s'.view) (harg : s.pendArg = s'.pendArg) {i : Instr}
    (hheld : s.held i = false) (hheld' : s'.held i = false) :
    (runCommand i (performOf i) s).view = (runCommand i (performOf i) s').view := by
  have herr : s.err = s'.err := congrArg View.err h
  have hp : s.phase = s'.phase := congrArg View.phase h
  have hraise : ∀ c, (s.raise c).view = (s'.raise c).view := fun c => by rw [view_raise, view_raise, h]
  simp only [runCommand, hheld, hheld', Bool.false_eq_true, if_false, ← herr, ← hp]
  split_ifs
  · rw [view_finish, view_finish, h]
  · cases hphase : phaseError i s.phase with
    | some c => exact hraise c
    | none =>
      have hperf := view_performOf hinv h harg hphase
      cases hr : performOf i s with
      | error c =>
        cases hr' : performOf i s' with
        | error c' =>
          rw [hr, hr'] at hperf
          exact Except.error.inj hperf ▸ hraise c
        | ok u' => rw [hr, hr'] at hperf; cases hperf
      | ok u =>
        cases hr' : performOf i s' with
        | error c' => rw [hr, hr'] at hperf; cases hperf
        | ok u' =>
          rw [hr, hr'] at hperf
          exact (view_finish u).trans ((Except.ok.inj hperf).trans (view_finish u').symm)

theorem view_runIllegal {s s' : State} (h : s.view = s'.view) : (runIllegal s).view = (runIllegal s').view := by
  have herr : s.err = s'.err := congrArg View.err h
  simp only [runIllegal, ← herr]
  split_ifs
  · rw [view_finish, view_finish, h]
  · rw [view_raise, view_raise, h]

/-! ### Steps at which a command completes, and steps at which none does -/

/-- The next event is neither a reset nor an overrun (R216). -/
def State.plainNext (s : State) : Prop := s.resetNext = false ∧ s.overrunNext = false

/-- At a step that completes a command word the block runs that word, and does not hold it (R93, R98). -/
theorem completing_word {s : State} {c : Word × Word} {cs : List (Word × Word)} (h : s.completingWord = c :: cs) :
    s.blockTurn = true ∧ s.busy = true ∧ c = (s.pendCmd, s.pendArg) ∧ cs = [] ∧
      ∀ i, decode s.pendCmd = .ok i → s.held i = false := by
  unfold State.completingWord at h
  split_ifs at h with hturn
  simp only [Bool.and_eq_true] at hturn
  split at h
  next i hdecode =>
    split_ifs at h with hheld
    obtain ⟨rfl, rfl⟩ := List.cons.inj h
    refine ⟨hturn.1, hturn.2, rfl, rfl, fun j hj => ?_⟩
    obtain rfl := Except.ok.inj (hdecode.symm.trans hj)
    exact Bool.eq_false_iff.2 hheld
  next e hdecode =>
    obtain ⟨rfl, rfl⟩ := List.cons.inj h
    exact ⟨hturn.1, hturn.2, rfl, rfl, fun j hj => by simp [hdecode] at hj⟩

/-- The events to come are no part of the view (R216). -/
theorem view_schedule (s : State) (e : List Event) : ({ s with schedule := e } : State).view = s.view :=
  view_eq_of_content rfl rfl rfl

/-- The block's turn on the same command word and operand, not held, has the same effect on states that look alike. -/
theorem view_blockStep {s s' t t' : State} (hinv : Inv s) (h : s.view = s'.view) (hbusy : s.busy = true)
    (hbusy' : s'.busy = true) (hcmd : s.pendCmd = s'.pendCmd) (harg : s.pendArg = s'.pendArg)
    (hheld : ∀ i, decode s.pendCmd = .ok i → s.held i = false)
    (hheld' : ∀ i, decode s'.pendCmd = .ok i → s'.held i = false)
    (hstep : blockStep s = .next t) (hstep' : blockStep s' = .next t') : t.view = t'.view := by
  cases hdecode : decode s.pendCmd with
  | error e =>
    rw [blockStep_illegal hbusy hdecode] at hstep
    rw [blockStep_illegal hbusy' (hcmd ▸ hdecode)] at hstep'
    cases hstep
    cases hstep'
    exact view_runIllegal h
  | ok i =>
    rw [blockStep_decoded hbusy hdecode, exec_runCommand] at hstep
    rw [blockStep_decoded hbusy' (hcmd ▸ hdecode), exec_runCommand] at hstep'
    cases hstep
    cases hstep'
    exact view_runCommand hinv h harg (hheld i hdecode) (hheld' i (hcmd ▸ hdecode))

/-- States that look alike still do after a step that completes the same command word with the same operand (R216). -/
theorem view_step_completing {s s' t t' : State} {c : Word × Word} {cs cs' : List (Word × Word)} (hinv : Inv s)
    (h : s.view = s'.view) (hc : s.completingWord = c :: cs) (hc' : s'.completingWord = c :: cs')
    (hstep : step s = .next t) (hstep' : step s' = .next t') : t.view = t'.view := by
  obtain ⟨hturn, hbusy, rfl, -, hheld⟩ := completing_word hc
  obtain ⟨hturn', hbusy', he, -, hheld'⟩ := completing_word hc'
  obtain ⟨hcmd, harg⟩ := Prod.mk.inj he
  rw [step_blockTurn hturn] at hstep
  rw [step_blockTurn hturn'] at hstep'
  refine view_blockStep (s' := { s' with schedule := s'.schedule.tail })
    (hinv.frame s.schedule.tail s.result s.busy) ?_ hbusy hbusy' hcmd harg ?_ ?_ hstep hstep'
  · exact (view_schedule s _).trans (h.trans (view_schedule s' _).symm)
  · simpa using hheld
  · simpa using hheld'

/-- A turn of the block that completes no command word leaves the view: the block is idle, or holds (R98, R189). -/
theorem view_blockStep_silent {s t : State} (hturn : s.blockTurn = true) (hc : s.completingWord = [])
    (hstep : step s = .next t) : t.view = s.view := by
  rw [step_blockTurn hturn] at hstep
  rcases blockStep_cases hstep with ⟨-, rfl⟩ | ⟨e, hbusy, hdecode, -⟩ | ⟨i, hbusy, hdecode, rfl⟩
  · exact view_schedule s _
  · simp only at hbusy hdecode
    simp [State.completingWord, hturn, hbusy, hdecode] at hc
  · simp only at hbusy hdecode
    have hheld : s.held i = true := by simpa [State.completingWord, hturn, hbusy, hdecode] using hc
    rw [runCommand, held_schedule, if_pos hheld]
    exact view_schedule s _

/-- A host read leaves the view: a popped byte stays among those pushed (R55, R66). -/
theorem view_mmioRead (s : State) (idx : BitVec 4) : (s.mmioRead idx).view = s.view := by
  unfold State.mmioRead
  split_ifs
  · exact view_eq_of_content (content_pop s) s.pop_err s.pop_errcode
  · exact view_eq_of_content rfl rfl rfl

/-- A host write leaves the view, if it is no overrun (R55, R92). -/
theorem view_mmioWrite {s : State} {idx : BitVec 4} (h : ¬ (idx = 3#4 ∧ s.busy = true)) (w : Word) :
    (s.mmioWrite idx w).view = s.view := by
  rcases mmioWrite_cases s idx w with ⟨hidx, hbusy, -⟩ | ⟨-, -, he⟩ | ⟨-, he⟩ | ⟨-, -, he⟩
  · exact absurd ⟨hidx, hbusy⟩ h
  · rw [he]
    exact view_eq_of_content rfl rfl rfl
  · rw [he]
    exact view_eq_of_content rfl rfl rfl
  · rw [he]

/-- A step that completes no command word, and is neither a reset nor an overrun, leaves the view (R216). -/
theorem view_step_silent {s t : State} (hc : s.completingWord = []) (hplain : s.plainNext) (hstep : step s = .next t) :
    t.view = s.view := by
  obtain ⟨hreset, hoverrun⟩ := hplain
  rcases step_cases hstep with ⟨hs, -⟩ | ⟨r, hs, -⟩ | ⟨r, hs, -⟩ | ⟨a, z, r, hs, hr⟩ | ⟨a, z, d, r, hs, hw⟩
  · exact view_blockStep_silent (by simp [State.blockTurn, hs]) hc hstep
  · exact view_blockStep_silent (by simp [State.blockTurn, hs]) hc hstep
  · simp [State.resetNext, hs] at hreset
  · obtain ⟨-, rfl⟩ := hostRead_next hr
    exact (view_mmioRead _ _).trans (view_schedule s r)
  · obtain ⟨hin, hw⟩ := hostWrite_next hw
    have hno : ¬ (regIndex a = 3#4 ∧ s.busy = true) := by
      rintro ⟨hidx, hbusy⟩
      simp [State.overrunNext, hs, hin, hidx, hbusy] at hoverrun
    have hwrite : ∀ n v, (State.mmioWrite { s with schedule := r, draws := n } (regIndex a) v).view = s.view :=
      fun n v => (view_mmioWrite (s := { s with schedule := r, draws := n }) hno v).trans
        (view_eq_of_content rfl rfl rfl)
    rcases hw with ⟨-, rfl⟩ | ⟨-, rfl⟩
    · exact hwrite s.draws d
    · exact hwrite (s.draws + 1) _

/-! ### Tier 2: runs by the commands that complete -/

/-- A run in which no command completes ends in a state that looks as it began. -/
theorem view_run_silent {n : Nat} {s t : State} (hduring : during State.plainNext n s) (hrun : run n s = some t)
    (hc : gather State.completingWord n s = []) : t.view = s.view := by
  induction n generalizing s with
  | zero => exact Option.some.inj hrun ▸ rfl
  | succ n ih =>
    obtain ⟨u, hstep, hrest⟩ := run_succ.1 hrun
    obtain ⟨hplain, hlater⟩ := (during_succ hstep).1 hduring
    rw [gather_succ hstep, List.append_eq_nil_iff] at hc
    exact (ih hlater hrest hc.2).trans (view_step_silent hc.1 hplain hstep)

/-- A run in which a command completes, cut at the first step at which one does. -/
theorem run_first_completing {n : Nat} {s t : State} {c : Word × Word} {cs : List (Word × Word)} (hinv : Inv s)
    (hduring : during State.plainNext n s) (hrun : run n s = some t)
    (hc : gather State.completingWord n s = c :: cs) :
    ∃ k u v, Inv u ∧ u.view = s.view ∧ u.completingWord = [c] ∧ step u = .next v ∧ during State.plainNext k v ∧
      run k v = some t ∧ gather State.completingWord k v = cs := by
  induction n generalizing s with
  | zero => simp [gather] at hc
  | succ n ih =>
    obtain ⟨v, hstep, hrest⟩ := run_succ.1 hrun
    obtain ⟨hplain, hlater⟩ := (during_succ hstep).1 hduring
    rw [gather_succ hstep] at hc
    cases hword : s.completingWord with
    | nil =>
      rw [hword, List.nil_append] at hc
      obtain ⟨k, u, w, hu, hview, hrun'⟩ := ih (invariantKept s v hinv hstep) hlater hrest hc
      exact ⟨k, u, w, hu, hview.trans (view_step_silent hword hplain hstep), hrun'⟩
    | cons d ds =>
      obtain rfl := (completing_word hword).2.2.2.1
      rw [hword, List.singleton_append] at hc
      obtain ⟨rfl, rfl⟩ := List.cons.inj hc
      exact ⟨n, s, v, hinv, rfl, hword, hstep, hlater, hrest, rfl⟩

/-- Settles O60, by induction on the commands that complete. -/
theorem runIsDeterminedByCommands : Obligations.RunIsDeterminedByCommands := by
  intro n m s s' t t' hinv hinv' hview hduring hduring' hrun hrun' hgather
  generalize hc : gather State.completingWord n s = cs at hgather
  replace hgather := hgather.symm
  induction cs generalizing n m s s' with
  | nil =>
    rw [view_run_silent hduring hrun hc, view_run_silent hduring' hrun' hgather, hview]
  | cons c cs ih =>
    obtain ⟨k, u, v, hu, huview, hword, hstep, hd, hr, hg⟩ := run_first_completing hinv hduring hrun hc
    obtain ⟨k', u', v', hu', huview', hword', hstep', hd', hr', hg'⟩ :=
      run_first_completing hinv' hduring' hrun' hgather
    exact ih k k' v v' (invariantKept u v hu hstep) (invariantKept u' v' hu' hstep')
      (view_step_completing hu (huview.trans (hview.trans huview'.symm)) hword hword' hstep hstep') hd hd' hr hr' hg hg'

end Sys2Proof.Machine
end

section
/-! PROOFS. GENCODES writes the paths of BUILD's tree into the code table, and READLEN and READCODE read it back
(spec/43_codes.md R140 to R145). -/

namespace Sys2Proof.Machine

/-! ### The walk down a tree's paths -/

/-- On a tree that the arena lays out, each leaf's path leads from the top to the leaf (R140). -/
theorem NodeTree.walk_of_mem_paths {A : Arena} {t : NodeTree} (ht : t.heldBy A) {c : Sym × List Bool}
    (hc : c ∈ t.paths) : walk A t.root c.2 = some (leafId c.1) := by
  induction t generalizing c with
  | leaf sym =>
    obtain rfl := List.mem_singleton.1 hc
    rfl
  | node id l r ihl ihr =>
    obtain ⟨hid, hl, hr, htl, htr⟩ := ht
    simp only [paths, List.mem_append, List.mem_map] at hc
    rcases hc with ⟨p, hp, rfl⟩ | ⟨p, hp, rfl⟩
    · simpa [walk, root, hid, hl] using ihl htl hp
    · simpa [walk, root, hid, hr] using ihr htr hp

/-! ### No bits above a code -/

/-- The bits of CODE_VAL above each code are 0 (R36). -/
def CodeTable.HighBitsZero (T : CodeTable) : Prop := ∀ sym, (T.valOf sym).toNat < 2 ^ (T.lenOf sym).toNat

theorem CodeTable.highBitsZero_empty : CodeTable.empty.HighBitsZero := fun sym => by simp

/-- Writing a code of d ≤ 255 bits leaves the bits above every code 0. -/
theorem CodeTable.HighBitsZero.set {T : CodeTable} (hT : T.HighBitsZero) (a : Sym) {d v : Nat} (hd : d ≤ 255)
    (hv : v < 2 ^ d) : (T.set a (BitVec.ofNat 8 d) (BitVec.ofNat 255 v)).HighBitsZero := by
  intro sym
  rw [lenOf_set, valOf_set]
  split_ifs
  · have hlen : (BitVec.ofNat 8 d).toNat = d := (BitVec.toNat_ofNat d 8).trans (Nat.mod_eq_of_lt (by omega))
    rw [hlen, BitVec.toNat_ofNat]
    exact (Nat.mod_le _ _).trans_lt hv
  · exact hT sym

/-- The recursion of R140 adds a bit to v with each level d, so its codes fit their lengths. -/
theorem NodeTree.highBitsZero_writeCodes {t : NodeTree} {v d : Nat} (hd : d + t.depth ≤ 255) (hv : v < 2 ^ d)
    {T : CodeTable} (hT : T.HighBitsZero) : (t.writeCodes v d T).HighBitsZero := by
  induction t generalizing v d T with
  | leaf a => exact hT.set a (by simpa [depth] using hd) hv
  | node id l r ihl ihr =>
    simp only [depth] at hd
    have hpow : 2 ^ (d + 1) = 2 * 2 ^ d := Nat.pow_succ'
    exact ihr (by omega) (by omega) (ihl (by omega) (by omega) hT)

/-! ### Tier 2: the codes are paths -/

section
variable {t l r : NodeTree} {id : NodeId} {f : Vector Word 256} {A : Arena} {root : NodeId} {sym : Sym}

/-- With two or more leaves, the code of a present symbol leads from the root to its leaf (R140). -/
theorem NodeTree.IsTreeOf.walk_genTable (h : (NodeTree.node id l r).IsTreeOf f A root) (hsym : freqOf f sym ≠ 0#32) :
    walk A root (codeString (genTable A root) sym) = some (leafId sym) := by
  have hleaf := h.leaves.symm.subset (mem_presentSyms.2 hsym)
  rw [← NodeTree.paths_fst] at hleaf
  obtain ⟨c, hc, rfl⟩ := List.mem_map.1 hleaf
  rw [h.codeString_genTable hc, ← h.root_eq]
  exact NodeTree.walk_of_mem_paths h.held hc

theorem NodeTree.IsTreeOf.highBitsZero_genTable (h : t.IsTreeOf f A root) : (genTable A root).HighBitsZero := by
  cases t with
  | leaf a => exact genTable_of_leaf h ▸ CodeTable.highBitsZero_empty.set a (by simp) (by simp)
  | node id l r =>
    have hdepth := h.depth_le
    exact genTable_of_node h ▸ NodeTree.highBitsZero_writeCodes (by omega) (by simp) CodeTable.highBitsZero_empty

/-- An absent symbol keeps the empty table's entry, CODE_VAL included (R140, R141). -/
theorem NodeTree.IsTreeOf.genTable_absent (h : t.IsTreeOf f A root) (hsym : freqOf f sym = 0#32) :
    (genTable A root).lenOf sym = 0#8 ∧ (genTable A root).valOf sym = 0#255 := by
  have hnot : sym ∉ t.leaves := fun hmem => mem_presentSyms.1 (h.leaves.subset hmem) hsym
  cases t with
  | leaf a =>
    have hne : a ≠ sym := by simpa [NodeTree.leaves, eq_comm] using hnot
    simp [genTable_of_leaf h, lenOf_set, valOf_set, hne]
  | node id l r =>
    rw [genTable_of_node h, lenOf_writeCodes_of_notMem hnot, NodeTree.valOf_writeCodes_of_notMem hnot]
    exact ⟨lenOf_empty sym, valOf_empty sym⟩

end

/-- Settles O48. A tree of two or more leaves has an internal node at its top, so its codes are its paths. -/
theorem codesArePaths : Obligations.CodesArePaths := by
  intro s hinv herr hphase htwo
  have hbuilt := hinv.tree (by simp [hphase])
  obtain ⟨t, ht⟩ := hbuilt.exists_isTreeOf
  have hnum : s.nLeaves.toNat = t.leaves.length :=
    (hbuilt.root_valid (by simp [hphase])).1.trans ht.leaves.length_eq.symm
  cases t with
  | leaf a => simp [hnum, NodeTree.leaves] at htwo
  | node id l r =>
    exact ⟨_, exec_gencodes herr hphase, fun sym hsym => ⟨ht.walk_genTable hsym, ht.highBitsZero_genTable sym⟩,
      fun sym => ht.genTable_absent⟩

/-! ### Tier 1: GENCODES completes, and the readback -/

/-- Settles O47: on a leaf as the root the table is the empty one with the code "0" set. -/
theorem gencodesCompletes : Obligations.GencodesCompletes := by
  intro s herr hphase
  refine ⟨_, exec_gencodes herr hphase, rfl, fun hroot => ?_⟩
  have htable : genTable s.arena s.root = CodeTable.empty.set (s.root.setWidth 8) 1#8 0#255 :=
    if_pos (decide_eq_true hroot)
  simp only [htable, lenOf_set, valOf_set, lenOf_empty, valOf_empty, if_true, true_and]
  exact fun x hx => ⟨if_neg hx.symm, if_neg hx.symm⟩

/-- A command that needs no room in OUTQ and is in its phases completes where its body answers (R97, R102). -/
theorem exec_of_mem_allowedPhases {i : Instr} {s u : State} (hneed : s.need i = none) (herr : s.err = false)
    (hphase : s.phase ∈ allowedPhases i) (hperf : performOf i s = .ok u) : exec i s = .next u.finish :=
  exec_of_perform_ok (held_eq_false_of_need hneed) herr (phaseError_eq_none_iff.2 hphase) hperf

/-- Settles O50: the length is zero-extended. -/
theorem readlenAnswersLength : Obligations.ReadlenAnswersLength := by
  intro sym s herr hphase
  exact ⟨_, exec_of_mem_allowedPhases (i := .readlen sym) rfl herr (by simpa [allowedPhases] using hphase) rfl, rfl,
    BitVec.toNat_setWidth_of_le (by omega)⟩

/-- A word of a code as a number: the quotient by the bits below it, cut to 32 bits (R145). -/
theorem codeWord_toNat (v : CodeBits) (wrd : BitVec 3) :
    (codeWord v wrd).toNat = v.toNat / 2 ^ (32 * wrd.toNat) % 2 ^ 32 := by
  rw [codeWord, BitVec.extractLsb'_toNat, BitVec.toNat_setWidth_of_le (by omega), Nat.shiftRight_eq_div_pow]

/-- Settles O51: codeWord is the word R145 names. -/
theorem readcodeAnswersWord : Obligations.ReadcodeAnswersWord := by
  intro sym wrd s herr hphase
  exact ⟨_, exec_of_mem_allowedPhases (i := .readcode sym wrd) rfl herr (by simpa [allowedPhases] using hphase) rfl,
    rfl, codeWord_toNat _ wrd⟩

end Sys2Proof.Machine
end

section
/-! PROOFS. The bit packer (spec/44_packer.md R155 to R161). -/

namespace Sys2Proof.Machine

/-! ### Bit strings of numbers and bytes -/

@[simp] theorem msbFirst_zero (v : Nat) : msbFirst 0 v = [] := rfl

/-- The high bits of a number come before its low ones (R8, R9). -/
theorem msbFirst_add (m n v : Nat) : msbFirst (m + n) v = msbFirst m (v / 2 ^ n) ++ msbFirst n v := by
  simp only [msbFirst, List.range_add, List.map_append, List.map_map]
  congr 1
  · refine List.map_congr_left fun i hi => ?_
    rw [List.mem_range] at hi
    rw [Nat.testBit_div_two_pow, show m + n - 1 - i = n + (m - 1 - i) by omega, Nat.add_comm]
  · refine List.map_congr_left fun i _ => ?_
    simp only [Function.comp_apply]
    rw [show m + n - 1 - (m + i) = n - 1 - i by omega]

/-- Bits above the first len play no part. -/
theorem msbFirst_mod (len v : Nat) : msbFirst len (v % 2 ^ len) = msbFirst len v := by
  refine List.map_congr_left fun i hi => ?_
  rw [List.mem_range] at hi
  rw [Nat.testBit_mod_two_pow, decide_eq_true (by omega), Bool.true_and]

/-- Reading a number of len bits back from its bits. -/
theorem bitsValue_msbFirst {len v : Nat} (h : v < 2 ^ len) : bitsValue (msbFirst len v) = v := by
  induction len generalizing v with
  | zero => exact (Nat.lt_one_iff.1 h).symm
  | succ len ih =>
    rw [pow_succ] at h
    have hv : 2 * (v / 2) + (v.testBit 0).toNat = v := by
      rw [Nat.toNat_testBit]; omega
    rw [← hv, msbFirst_succ, bitsValue_concat, ih (by omega)]

/-- A number of len bits is determined by them. -/
theorem msbFirst_inj {len v w : Nat} (hv : v < 2 ^ len) (hw : w < 2 ^ len) (h : msbFirst len v = msbFirst len w) :
    v = w := by
  rw [← bitsValue_msbFirst hv, h, bitsValue_msbFirst hw]

/-- A number of whole multiples of 2^len ends in len zero bits. -/
theorem msbFirst_mul_two_pow (len v : Nat) : msbFirst len (v * 2 ^ len) = List.replicate len false := by
  rw [← msbFirst_mod, Nat.mul_mod_left]
  simp [msbFirst]

@[simp] theorem bytesBits_nil : bytesBits [] = [] := rfl

@[simp] theorem bytesBits_cons (b : Byte) (bs : List Byte) :
    bytesBits (b :: bs) = msbFirst 8 b.toNat ++ bytesBits bs := rfl

@[simp] theorem bytesBits_append (bs cs : List Byte) : bytesBits (bs ++ cs) = bytesBits bs ++ bytesBits cs :=
  List.flatMap_append

@[simp] theorem bytesBits_length (bs : List Byte) : (bytesBits bs).length = 8 * bs.length := by
  simp [bytesBits, List.length_flatMap, Nat.mul_comm]

/-- Bytes are determined by their bits. -/
theorem bytesBits_injective : Function.Injective bytesBits := by
  intro bs
  induction bs with
  | nil =>
    intro cs h
    exact (List.length_eq_zero_iff.1 (by simpa using (congrArg List.length h).symm)).symm
  | cons b bs ih =>
    rintro (_ | ⟨c, cs⟩) h
    · simpa using congrArg List.length h
    · obtain ⟨hhead, htail⟩ := List.append_inj h (by simp)
      rw [BitVec.eq_of_toNat_eq (msbFirst_inj b.isLt c.isLt hhead), ih htail]

/-- The bits ENCODE packs are the pending ones and the code's after them (R155). -/
theorem msbFirst_packBits (acc : BitVec 8) (cnt len : Nat) (val : CodeBits) :
    msbFirst (cnt + len) (packBits acc len val) = msbFirst cnt acc.toNat ++ msbFirst len val.toNat := by
  have hhigh : packBits acc len val / 2 ^ len = acc.toNat := by
    rw [packBits_eq, Nat.mul_comm, Nat.mul_add_div (by positivity), Nat.div_eq_of_lt (Nat.mod_lt _ (by positivity)),
      Nat.add_zero]
  have hlow : packBits acc len val % 2 ^ len = val.toNat % 2 ^ len := by
    rw [packBits_eq, Nat.mul_add_mod_self_right, Nat.mod_mod]
  rw [msbFirst_add, hhigh, ← msbFirst_mod len (packBits acc len val), hlow, msbFirst_mod]

/-- The first whole byte of n + 8 bits is the top one (R155). -/
theorem wholeBytes_add_eight (bits n : Nat) :
    wholeBytes bits (n + 8) = BitVec.ofNat 8 (bits / 2 ^ n) :: wholeBytes bits n := by
  have hdiv : (n + 8) / 8 = n / 8 + 1 := by omega
  have hshift : ∀ k, n + 8 - 8 - 8 * (k + 1) = n - 8 - 8 * k := by omega
  simp only [wholeBytes, hdiv, List.range_succ_eq_map, List.map_cons, List.map_map, Function.comp_def, hshift,
    Nat.shiftRight_eq_div_pow]
  simp

/-- The whole bytes of a total-bit value and the bits left over are the value's bits (R155). -/
theorem bytesBits_wholeBytes (bits total : Nat) :
    bytesBits (wholeBytes bits total) ++ msbFirst (total % 8) bits = msbFirst total bits := by
  by_cases hlt : total < 8
  · simp [wholeBytes, Nat.div_eq_of_lt hlt, Nat.mod_eq_of_lt hlt]
  · obtain ⟨n, rfl⟩ : ∃ n, total = n + 8 := ⟨total - 8, by omega⟩
    rw [wholeBytes_add_eight, bytesBits_cons, List.append_assoc, Nat.add_mod_right, bytesBits_wholeBytes bits n,
      Nat.add_comm n 8, msbFirst_add, BitVec.toNat_ofNat, msbFirst_mod]
termination_by total

/-! ### The packer and the bits it holds -/

/-- ACC, ACC_CNT and a queue of bytes hold this bit string, with fewer than 8 bits in ACC and no bit above them (R39,
R66). -/
structure Packs (acc : BitVec 8) (cnt : Nat) (q : List Byte) (bs : List Bool) : Prop where
  bits   : bytesBits q ++ msbFirst cnt acc.toNat = bs
  cnt_lt : cnt < 8
  acc_lt : acc.toNat < 2 ^ cnt

section
variable {acc acc' : BitVec 8} {cnt cnt' : Nat} {q q' : List Byte} {bs : List Bool}

/-- A bit string fills whole bytes and leaves the rest in ACC. -/
theorem Packs.length (h : Packs acc cnt q bs) : q.length = bs.length / 8 ∧ cnt = bs.length % 8 := by
  have hlen := congrArg List.length h.bits
  have := h.cnt_lt
  simp only [List.length_append, bytesBits_length, msbFirst_length] at hlen
  omega

/-- There is one way to pack a bit string. -/
theorem Packs.unique (h : Packs acc cnt q bs) (h' : Packs acc' cnt' q' bs) : (acc, cnt, q) = (acc', cnt', q') := by
  obtain ⟨hq, hcnt⟩ := h.length
  obtain ⟨hq', hcnt'⟩ := h'.length
  obtain rfl := hcnt.trans hcnt'.symm
  obtain ⟨hbytes, hacc⟩ := List.append_inj (h.bits.trans h'.bits.symm) (by simp [hq, hq'])
  rw [BitVec.eq_of_toNat_eq (msbFirst_inj h.acc_lt h'.acc_lt hacc), bytesBits_injective hbytes]

/-- R155's arithmetic appends the low len bits of a value. -/
theorem Packs.append (h : Packs acc cnt q bs) (len : Nat) (val : CodeBits) :
    Packs (BitVec.ofNat 8 (packBits acc len val % 2 ^ ((cnt + len) % 8))) ((cnt + len) % 8)
      (q ++ wholeBytes (packBits acc len val) (cnt + len)) (bs ++ msbFirst len val.toNat) := by
  have hrem : (cnt + len) % 8 < 8 := Nat.mod_lt _ (by decide)
  have hlt : packBits acc len val % 2 ^ ((cnt + len) % 8) < 2 ^ ((cnt + len) % 8) := Nat.mod_lt _ (by positivity)
  have hacc : (BitVec.ofNat 8 (packBits acc len val % 2 ^ ((cnt + len) % 8))).toNat =
      packBits acc len val % 2 ^ ((cnt + len) % 8) := by
    rw [BitVec.toNat_ofNat, Nat.mod_eq_of_lt (hlt.trans (Nat.pow_lt_pow_right (by decide) hrem))]
  refine ⟨?_, hrem, hacc.trans_lt hlt⟩
  calc bytesBits (q ++ wholeBytes (packBits acc len val) (cnt + len)) ++ msbFirst ((cnt + len) % 8) _
      = bytesBits q ++ msbFirst (cnt + len) (packBits acc len val) := by
        rw [hacc, msbFirst_mod, bytesBits_append, List.append_assoc, bytesBits_wholeBytes]
    _ = bytesBits q ++ (msbFirst cnt acc.toNat ++ msbFirst len val.toNat) := by
        rw [msbFirst_packBits]
    _ = bs ++ msbFirst len val.toNat := by rw [← List.append_assoc, h.bits]

/-- A turn of the bit-at-a-time loop appends its bit (R161). -/
theorem Packs.serialBit (h : Packs acc cnt q bs) (b : Bool) :
    ∃ acc' cnt' q', serialBit (acc, cnt, q) b = (acc', cnt', q') ∧ Packs acc' cnt' q' (bs ++ [b]) := by
  obtain ⟨rfl, hcnt, hacc⟩ := h
  have hpow : 2 ^ cnt ≤ 2 ^ 7 := Nat.pow_le_pow_right Nat.zero_lt_two (by omega)
  have hb := Bool.toNat_le b
  obtain ⟨new, hdef⟩ : ∃ new, acc <<< 1 ||| (BitVec.ofBool b).setWidth 8 = new := ⟨_, rfl⟩
  have hnew : new.toNat = 2 * acc.toNat + b.toNat := by
    rw [← hdef, BitVec.toNat_or, BitVec.toNat_shiftLeft, BitVec.toNat_setWidth, BitVec.toNat_ofBool,
      Nat.mod_eq_of_lt (a := b.toNat) (by omega), Nat.shiftLeft_eq, Nat.mod_eq_of_lt (by omega), Nat.mul_comm,
      ← Nat.two_pow_add_eq_or_of_lt (i := 1) (by omega)]
  have hbits : msbFirst (cnt + 1) new.toNat = msbFirst cnt acc.toNat ++ [b] := by rw [hnew, msbFirst_succ]
  simp only [Machine.serialBit, hdef]
  split_ifs with hfull
  · refine ⟨_, _, _, rfl, ?_, by decide, by decide⟩
    rw [hfull] at hbits
    simp [hbits]
  · refine ⟨_, _, _, rfl, ?_, by omega, ?_⟩
    · rw [hbits, List.append_assoc]
    · rw [hnew, pow_succ]
      omega

/-- The bit-at-a-time loop appends its bits (R161). -/
theorem Packs.foldl_serialBit (h : Packs acc cnt q bs) (cs : List Bool) :
    ∃ acc' cnt' q', cs.foldl Machine.serialBit (acc, cnt, q) = (acc', cnt', q') ∧ Packs acc' cnt' q' (bs ++ cs) := by
  induction cs generalizing acc cnt q bs with
  | nil => exact ⟨acc, cnt, q, rfl, by simpa using h⟩
  | cons b cs ih =>
    obtain ⟨acc', cnt', q', he, h'⟩ := h.serialBit b
    simpa [he] using ih h'

/-- The last byte of FLUSH holds the pending bits high and zero bits low (R156). -/
theorem lastByte_toNat (hcnt : cnt < 8) (hacc : acc.toNat < 2 ^ cnt) :
    (acc <<< (8 - cnt)).toNat = acc.toNat * 2 ^ (8 - cnt) := by
  have hsplit : 2 ^ cnt * 2 ^ (8 - cnt) = 2 ^ 8 := by rw [← pow_add, Nat.add_sub_cancel' hcnt.le]
  have hlt : acc.toNat * 2 ^ (8 - cnt) < 2 ^ 8 := hsplit ▸ Nat.mul_lt_mul_of_pos_right hacc (by positivity)
  rw [BitVec.toNat_shiftLeft, Nat.shiftLeft_eq, Nat.mod_eq_of_lt hlt]

/-- The pending bits padded with zero bits to a whole byte, none where none is pending (R156, R160). -/
theorem Packs.bytesBits_lastByte (h : Packs acc cnt q bs) :
    bytesBits (lastByte acc cnt) = msbFirst cnt acc.toNat ++ List.replicate ((8 - cnt) % 8) false := by
  obtain ⟨-, hcnt, hacc⟩ := h
  by_cases h0 : cnt = 0
  · subst h0
    rfl
  · have hhigh : acc.toNat * 2 ^ (8 - cnt) / 2 ^ (8 - cnt) = acc.toNat := Nat.mul_div_cancel _ (by positivity)
    have hbits := msbFirst_add cnt (8 - cnt) (acc.toNat * 2 ^ (8 - cnt))
    rw [Nat.add_sub_cancel' hcnt.le, hhigh, msbFirst_mul_two_pow] at hbits
    rw [lastByte, if_pos (Nat.pos_of_ne_zero h0), bytesBits_cons, lastByte_toNat hcnt hacc, hbits, bytesBits_nil,
      List.append_nil, Nat.mod_eq_of_lt (by omega)]

end

/-- The packer of a state whose ACC is in bounds holds the bytes queued and the bits pending (R39, R43). -/
theorem packs_of_acc_lt {s : State} (h : s.acc.toNat < 2 ^ s.accCnt.toNat) (q : List Byte) :
    Packs s.acc s.accCnt.toNat q (bytesBits q ++ s.pendingBits) :=
  ⟨rfl, s.accCnt.isLt, h⟩

/-! ### The packer commands -/

/-- A performed ENCODE appends the symbol's code to what the packer holds, whatever part of the bytes pushed is counted
(R155). -/
theorem Performed.packs_encode {sym : Sym} {s u : State} (h : Performed s (.encode sym) u) {q : List Byte}
    {bs : List Bool} (hs : Packs s.acc s.accCnt.toNat q bs) :
    ∃ new, u.outq = s.outq ++ new ∧ Packs u.acc u.accCnt.toNat (q ++ new) (bs ++ codeString s.codes sym) := by
  cases h with
  | encode sym len total bits hlen _ htotal hbits =>
    subst hlen htotal hbits
    refine ⟨_, rfl, ?_⟩
    have hrem : ∀ n, (BitVec.ofNat 3 (n % 8)).toNat = n % 8 := fun n => by simp
    simpa only [hrem, codeString] using hs.append (s.codes.lenOf sym).toNat (s.codes.valOf sym)

/-- What a performed ENCODE writes besides OUTQ and ACC (R155). -/
theorem Performed.encode_frame {sym : Sym} {s u : State} (h : Performed s (.encode sym) u) :
    u = { s with
      outq := u.outq, acc := u.acc, accCnt := u.accCnt
      bitcnt := s.bitcnt + BitVec.ofNat 64 (s.codes.lenOf sym).toNat } := by
  cases h with
  | encode sym len total bits hlen => subst hlen; rfl

/-- ENCODE in CODES of a symbol with a code, with room for its bytes, is performed (R97, R98, R155). -/
theorem exec_encode {sym : Sym} {s : State} (herr : s.err = false) (hcodes : s.phase = .codes)
    (hlen : (s.codes.lenOf sym).toNat ≠ 0)
    (hroom : (s.accCnt.toNat + (s.codes.lenOf sym).toNat) / 8 + s.outq.length ≤ 64) :
    ∃ u, exec (.encode sym) s = .next u.finish ∧ Performed s (.encode sym) u := by
  have hheld : s.held (.encode sym) = false := held_eq_false_of_room fun k hk => Option.some.inj hk ▸ hroom
  obtain ⟨u, hu⟩ : ∃ u, performOf (.encode sym) s = .ok u := ⟨_, if_neg hlen⟩
  exact ⟨u, exec_of_perform_ok hheld herr (by simp [hcodes, phaseError]) hu, performed_of_ok hu⟩

/-- The state FLUSH leaves when it is performed (R156). -/
def State.flushed (s : State) : State :=
  { s with outq := s.outq ++ lastByte s.acc s.accCnt.toNat, acc := 0#8, accCnt := 0#3, phase := .done, busy := false }

theorem flushed_pushedBytes (s : State) : s.flushed.pushedBytes = s.pushedBytes ++ lastByte s.acc s.accCnt.toNat :=
  (List.append_assoc _ _ _).symm

/-- FLUSH in CODES that is not held is performed (R97, R156). -/
theorem exec_flush {s : State} (herr : s.err = false) (hcodes : s.phase = .codes) (hheld : s.held .flush = false) :
    exec .flush s = .next s.flushed :=
  exec_of_perform_ok hheld herr (by simp [hcodes, phaseError]) rfl

/-! ### Tier 1: OUTDATA, an absent symbol, FLUSH -/

/-- Settles O8: a read of OUTDATA is a pop, by the cases of the queue. -/
theorem outdataReadPops : Obligations.OutdataReadPops := by
  intro s addr size rest hs hw hidx
  have hstep : step s = .next { State.pop { s with schedule := rest } with rdata := s.outdataWord } := by
    rw [step_read hs, hostRead_inside _ size hw, hidx]
    rfl
  constructor
  · intro b q hq
    simp [hstep, State.pop, State.outdataWord, hq]
  · intro hq
    simp [hstep, State.pop, State.outdataWord, hq]

/-- Settles O53: fewer than 8 bits pend, so no byte is needed and ENCODE is not held. -/
theorem encodeUnknownSymbol : Obligations.EncodeUnknownSymbol := by
  intro sym s herr hcodes hq hlen
  have hheld : s.held (.encode sym) = false := held_eq_false_of_room fun k hk => by
    have hcnt := s.accCnt.isLt
    obtain rfl := Option.some.inj hk
    omega
  exact exec_of_perform_error hheld herr (by simp [hcodes, phaseError]) (if_pos hlen)

/-- Settles O54, by whether bits are pending. -/
theorem flushPadsLastByte : Obligations.FlushPadsLastByte := by
  intro s hacc herr hcodes hroom
  have hheld : s.held .flush = false := held_eq_false_of_room fun k hk => Option.some.inj hk ▸ hroom
  refine ⟨_, exec_flush herr hcodes hheld, fun h0 => ?_, fun hne => ⟨_, ?_, lastByte_toNat s.accCnt.isLt hacc⟩, rfl⟩
  · simp [State.flushed, lastByte, h0]
  · simp [State.flushed, lastByte, Nat.pos_of_ne_zero hne]

/-! ### Tier 2: ENCODE -/

/-- Settles O52: the packer goes on holding its bits with the code's after them, and their number fixes the counts. -/
theorem encodeAppendsCode : Obligations.EncodeAppendsCode := by
  intro sym s hacc herr hcodes hlen hroom
  obtain ⟨u, hexec, hu⟩ := exec_encode herr hcodes hlen hroom
  obtain ⟨new, hnew, hpacks⟩ := hu.packs_encode (packs_of_acc_lt hacc s.outq)
  rw [← hnew] at hpacks
  obtain ⟨hq, hcnt⟩ := hpacks.length
  have hbits : (bytesBits s.outq ++ s.pendingBits ++ codeString s.codes sym).length =
      8 * s.outq.length + (s.accCnt.toNat + (s.codes.lenOf sym).toNat) := by
    simp [State.pendingBits, codeString]
  have hframe := hu.encode_frame
  have hbitcnt : u.bitcnt = s.bitcnt + BitVec.ofNat 64 (s.codes.lenOf sym).toNat := (congrArg State.bitcnt hframe : _)
  rw [hbits] at hq hcnt
  refine ⟨_, hexec, hpacks.bits, hq.trans (by omega), hcnt.trans (by omega), hpacks.acc_lt, ?_, ?_⟩
  · simp [hbitcnt]
  · rw [hframe]
    rfl

/-- Settles O55: both pack the same bits, and there is one way to pack them. -/
theorem encodeEqualsBitSerial : Obligations.EncodeEqualsBitSerial := by
  intro sym s t hacc herr hcodes hlen hroom hexec
  obtain ⟨u, hu, hperf⟩ := exec_encode herr hcodes hlen hroom
  obtain rfl : u.finish = t := Host.Outcome.next.inj (hu.symm.trans hexec)
  obtain ⟨new, hnew, hpacks⟩ := hperf.packs_encode (packs_of_acc_lt hacc s.outq)
  obtain ⟨acc, cnt, q, hserial, hloop⟩ := (packs_of_acc_lt hacc s.outq).foldl_serialBit (codeString s.codes sym)
  rw [← hnew] at hpacks
  exact hserial.trans (hloop.unique hpacks)

/-! ### Tier 2: the bytes pushed -/

/-- The commands that push bytes (R155, R156). -/
theorem Performed.pushedBytes_eq {i : Instr} {s u : State} (h : Performed s i u) :
    u.pushedBytes = s.pushedBytes ∨ i = .clear ∨
      ((i = .flush ∨ ∃ sym, i = .encode sym) ∧ ∃ bs, u.pushedBytes = s.pushedBytes ++ bs) := by
  cases h with
  | clear => exact .inr (.inl rfl)
  | encode sym => exact .inr (.inr ⟨.inr ⟨sym, rfl⟩, _, (List.append_assoc _ _ _).symm⟩)
  | flush => exact .inr (.inr ⟨.inl rfl, _, (List.append_assoc _ _ _).symm⟩)
  | _ => exact .inl rfl

/-- Settles O28: of the commands only ENCODE and FLUSH push bytes, and the phase table allows them in CODES alone. -/
theorem pushedBytesGrowOnlyByPacker : Obligations.PushedBytesGrowOnlyByPacker := by
  intro s t hstep hne
  rcases (step_effect hstep).cases with ⟨-, hun⟩ | ⟨i, u, hi, -, herr, -, hphase, hp, rfl⟩ | ⟨-, hreset, -⟩
  · exact absurd hun.pushedBytes hne
  · rcases hp.pushedBytes_eq with he | rfl | ⟨hpacker, hpushed⟩
    · exact absurd he hne
    · exact .inr (.inl hi)
    · have hcodes : s.phase = .codes ∧ i ≠ .clear := by
        have hfrom := phaseError_eq_none_iff.1 hphase
        rcases hpacker with rfl | ⟨sym, rfl⟩ <;> exact ⟨List.mem_singleton.1 hfrom, by simp⟩
      exact .inl ⟨hcodes.1, herr.resolve_right hcodes.2, by simpa [hi] using hpacker, hpushed⟩
  · exact .inr (.inr hreset)

/-! ### Tier 2: the stream of a run -/

/-- From s to t, without an error and with the code table as it was, the packer took in the codes of syms in order and
BITCNT counted their bits (R159). -/
structure Encoded (s : State) (syms : List Sym) (t : State) : Prop where
  err    : s.err = false
  codes  : t.codes = s.codes
  bitcnt : t.bitcnt = s.bitcnt + BitVec.ofNat 64 (syms.map fun sym => (s.codes.lenOf sym).toNat).sum
  packs  : ∀ {bs}, Packs s.acc s.accCnt.toNat s.pushedBytes bs →
    Packs t.acc t.accCnt.toNat t.pushedBytes (bs ++ syms.flatMap (codeString s.codes))

/-- What leaves the code table, the packer and the bytes pushed takes in no code. -/
theorem Encoded.of_kept {s t : State} (herr : s.err = false) (hcodes : t.codes = s.codes) (hbit : t.bitcnt = s.bitcnt)
    (hacc : t.acc = s.acc) (hcnt : t.accCnt = s.accCnt) (hpushed : t.pushedBytes = s.pushedBytes) :
    Encoded s [] t :=
  ⟨herr, hcodes, by simp [hbit], fun h => by simpa [hacc, hcnt, hpushed] using h⟩

theorem Encoded.trans {s t u : State} {a b : List Sym} (h : Encoded s a t) (h' : Encoded t b u) :
    Encoded s (a ++ b) u := by
  refine ⟨h.err, h'.codes.trans h.codes, ?_, fun hs => ?_⟩
  · rw [h'.bitcnt, h.bitcnt, h.codes, List.map_append, List.sum_append, BitVec.ofNat_add, BitVec.add_assoc]
  · have hpacks := h'.packs (h.packs hs)
    rwa [h.codes, List.append_assoc, ← List.flatMap_append] at hpacks

/-- The events to come are nothing to the packer. -/
theorem Encoded.of_schedule {s t : State} {e : List Event} {syms : List Sym}
    (h : Encoded { s with schedule := e } syms t) : Encoded s syms t :=
  ⟨h.err, h.codes, h.bitcnt, h.packs⟩

/-- A performed ENCODE takes in its symbol's code (R155). -/
theorem Performed.encoded {sym : Sym} {s u : State} (h : Performed s (.encode sym) u) (herr : s.err = false) :
    Encoded s [sym] u.finish := by
  have hframe := h.encode_frame
  refine ⟨herr, (congrArg State.codes hframe : _), ?_, fun {bs} hs => ?_⟩
  · simpa using (congrArg State.bitcnt hframe : u.bitcnt = _)
  · obtain ⟨new, hnew, hpacks⟩ := h.packs_encode hs
    have hhost : u.hostOut = s.hostOut := (congrArg State.hostOut hframe : _)
    have hpushed : u.finish.pushedBytes = s.pushedBytes ++ new := by simp [State.pushedBytes, hhost, hnew]
    rw [hpushed, List.flatMap_singleton]
    exact hpacks

/-- A command performed in CODES that leaves PHASE in CODES is an ENCODE, or takes in no code (R97). -/
theorem Performed.encoded_or {i : Instr} {s u : State} (h : Performed s i u) (herr : s.err = false)
    (hs : s.phase = .codes) (hphase : phaseError i s.phase = none) (hu : u.phase = .codes) :
    (∃ sym, i = .encode sym ∧ (s.codes.lenOf sym).toNat ≠ 0 ∧ Encoded s [sym] u.finish) ∨
      ((∀ sym, i ≠ .encode sym) ∧ Encoded s [] u.finish) := by
  have hfrom := phaseError_eq_none_iff.1 hphase
  cases h with
  | encode sym len total bits hlen h0 htotal hbits =>
    exact .inl ⟨sym, rfl, hlen ▸ h0, (Performed.encode sym len total bits hlen h0 htotal hbits).encoded herr⟩
  | clear | build | flush => cases hu
  | count | setfreq | gencodes => simp [allowedPhases, hs] at hfrom
  | nop | readfreq | readlen | readcode | readnode =>
    exact .inr ⟨fun _ => by simp, .of_kept herr rfl rfl rfl rfl rfl⟩

/-- A step that completes no ENCODE appends no symbol. -/
theorem encodedSyms_eq_nil {s : State} (h : ∀ sym, s.completing ≠ some (.encode sym)) : s.encodedSyms = [] := by
  unfold State.encodedSyms
  split
  next sym hsym => exact absurd hsym (h sym)
  next => rfl

/-- A step within CODES that leaves ERR = 0 takes in the code of the symbol it encodes, if it encodes one. -/
theorem encoded_step {s t : State} (hstep : step s = .next t) (hs : s.phase = .codes) (ht : t.phase = .codes)
    (herr : t.err = false) : Encoded s s.encodedSyms t := by
  rcases (step_effect hstep).cases with ⟨-, hun⟩ | ⟨i, u, hi, -, herr', -, hphase, hp, rfl⟩ | ⟨-, -, rfl⟩
  · have hnone : s.encodedSyms = [] := encodedSyms_eq_nil (by simp [hun.completing_eq_none herr])
    have hs0 : s.err = false := by
      rcases hun.error with ⟨he, -⟩ | ⟨he, -⟩
      · exact he ▸ herr
      · simp [he] at herr
    rw [hnone]
    exact .of_kept hs0 hun.codes hun.bitcnt hun.acc hun.accCnt hun.pushedBytes
  · have hclear : i ≠ .clear := by
      rintro rfl
      exact absurd (hp.phase_eq.symm.trans ht) (by simp [phaseAfter])
    have hs0 := herr'.resolve_right hclear
    rcases hp.encoded_or hs0 hs hphase ht with ⟨sym, rfl, hlen, henc⟩ | ⟨hne, henc⟩
    · have hsyms : s.encodedSyms = [sym] := by
        simp only [State.encodedSyms, hi]
        exact if_pos ⟨hs0, hs, hlen⟩
      exact hsyms ▸ henc.of_schedule
    · have hnone : s.encodedSyms = [] := encodedSyms_eq_nil fun sym => by simp [hi, hne]
      exact hnone ▸ henc.of_schedule
  · cases ht

/-- What holds during a run and at its end holds at its start. -/
theorem during_start {p : State → Prop} {n : Nat} {s t : State} (hd : during p n s) (hrun : run n s = some t)
    (ht : p t) : p s := by
  cases n with
  | zero => exact Option.some.inj hrun ▸ ht
  | succ n => exact hd.1

/-- A run within CODES that ends with ERR = 0 takes in the codes of the symbols it encodes, in order (R159). -/
theorem encoded_run {n : Nat} {s t : State} (hd : during (fun v => v.phase = .codes) n s) (hrun : run n s = some t)
    (ht : t.phase = .codes) (herr : t.err = false) : Encoded s (gather State.encodedSyms n s) t := by
  induction n generalizing s with
  | zero =>
    obtain rfl := Option.some.inj hrun
    exact .of_kept herr rfl rfl rfl rfl rfl
  | succ n ih =>
    obtain ⟨u, hstep, hrest⟩ := run_succ.1 hrun
    obtain ⟨hs, hlater⟩ := (during_succ hstep).1 hd
    have hlate := ih hlater hrest
    rw [gather_succ hstep]
    exact (encoded_step hstep hs (during_start hlater hrest ht) hlate.err).trans hlate

/-- A packer with an empty stream and an empty ACC holds no bits. -/
theorem packs_nil {s : State} (hempty : s.streamBits = []) (hacc : s.acc = 0#8) :
    Packs s.acc s.accCnt.toNat s.pushedBytes [] :=
  ⟨hempty, s.accCnt.isLt, by simp [hacc]⟩

theorem length_flatMap_codeString (T : CodeTable) (syms : List Sym) :
    (syms.flatMap (codeString T)).length = (syms.map fun sym => (T.lenOf sym).toNat).sum := by
  simp [List.length_flatMap, codeString]

/-- Settles O56: the packer holds the run's codes, and FLUSH pads the bits still pending to a byte. -/
theorem encodedStreamOfRun : Obligations.EncodedStreamOfRun := by
  intro n s t u hempty hacc hd hrun hphase herr hflush hstep
  have henc := encoded_run hd hrun hphase herr
  have hflushed : u = State.flushed { t with schedule := t.schedule.tail } := by
    obtain ⟨-, -, -, hheld⟩ := of_completing hflush
    rw [step_of_completing hflush] at hstep
    exact Host.Outcome.next.inj (hstep.symm.trans (exec_flush herr hphase ((held_schedule t _ _).trans hheld)))
  have hpushed : u.pushedBytes = t.pushedBytes ++ lastByte t.acc t.accCnt.toNat := hflushed ▸ flushed_pushedBytes _
  have hpacks := henc.packs (packs_nil hempty hacc)
  rw [List.nil_append] at hpacks
  obtain ⟨hq, hcnt⟩ := hpacks.length
  rw [length_flatMap_codeString] at hq hcnt
  refine ⟨?_, ?_, (congrArg State.bitcnt hflushed).trans henc.bitcnt, congrArg State.phase hflushed⟩
  · rw [hpushed, bytesBits_append, hpacks.bytesBits_lastByte, ← List.append_assoc, hpacks.bits, hcnt]
  · rw [hpushed, List.length_append, lastByte_length, hq, hcnt]
    split_ifs <;> omega

end Sys2Proof.Machine
end

section
/-! PROOFS. The idle block and the error state (spec/60_exceptions.md R181, R189). -/

namespace Sys2Proof.Machine

/-- With BUSY = 0 the block's turn changes nothing (R189). -/
theorem blockStep_idle {s : State} (hbusy : s.busy = false) : blockStep s = .next s := by
  simp [blockStep, hbusy]

/-- A step that completes CLEAR is the run initialisation, which clears the error state (R44, R100). -/
theorem step_of_completing_clear {s t : State} (hclear : s.completing = some .clear) (hstep : step s = .next t) :
    t.err = false ∧ t.errcode = .noError := by
  rw [step_of_completing hclear, exec_clear] at hstep
  obtain rfl := Host.Outcome.next.inj hstep
  exact ⟨rfl, rfl⟩

/-- With ERR = 1 a step that performs nothing records no further error (R181). -/
theorem Unperformed.error_kept {s t : State} (h : Unperformed s t) (herr : s.err = true) :
    t.err = true ∧ t.errcode = s.errcode := by
  rcases h.error with ⟨he, hcode⟩ | ⟨-, hnone, -⟩
  · exact ⟨he.trans herr, hcode⟩
  · simp [herr] at hnone

/-! ### Tier 1: the idle block -/

/-- Settles O19: on its turn the step is the block's, and the idle block changes nothing. -/
theorem idleBlockKeepsState : Obligations.IdleBlockKeepsState := by
  intro s hbusy hturn
  exact (step_blockTurn hturn).trans (blockStep_idle hbusy)

/-! ### Tier 2: the first error -/

/-- Settles O23: with ERR = 1 a step performs nothing, performs CLEAR, or is a reset. -/
theorem firstErrorStays : Obligations.FirstErrorStays := by
  intro s t herr hstep
  rcases (step_effect hstep).cases with ⟨hreset, hun⟩ | ⟨i, u, hi, -, hgate, -⟩ | ⟨-, hreset, rfl⟩
  · obtain ⟨hset, hcode⟩ := hun.error_kept herr
    have hclear : s.completing ≠ some .clear := fun hc => by
      simp [(step_of_completing_clear hc hstep).1] at hset
    exact .inl ⟨hset, hcode, hclear, hreset⟩
  · obtain rfl : i = .clear := hgate.resolve_left (by simp [herr])
    obtain ⟨hset, hcode⟩ := step_of_completing_clear hi hstep
    exact .inr ⟨hset, hcode, .inl hi⟩
  · exact .inr ⟨rfl, rfl, .inr hreset⟩

end Sys2Proof.Machine
end

section
/-! PROOFS. The reset event (spec/70_reset_and_hazards.md). -/

namespace Sys2Proof.Machine

/-- A reset event is the run initialisation, whatever the state (R90, R200). -/
theorem step_reset {s : State} {rest : List Event} (hs : s.schedule = .reset :: rest) :
    step s = .next (State.initRun { s with schedule := rest }) := by
  simp [step, runEvent, hs, resetEvent]

/-! ### Tier 1: the reset event -/

/-- Settles O2: the reset event is the run initialisation, whose tables read 0 at every symbol; R24 gives ID. -/
theorem resetEventSetsResetValues : Obligations.ResetEventSetsResetValues := by
  intro s rest hs
  refine ⟨_, step_reset hs, rfl, rfl, rfl, rfl, rfl, rfl, rfl, rfl, fun sym => ?_, rfl, rfl, fun sym => ?_,
    fun sym => ?_, rfl, rfl, ?_, rfl, rfl⟩
  · exact freqOf_replicate 0#32 sym
  · exact lenOf_empty sym
  · exact valOf_empty sym
  · exact (idReadsConstant _).1

end Sys2Proof.Machine
end
